-- ==== Sys2Proof/Word.lean ====
section
/-!
DEFINITION. The word types of the block (spec/00_scope.md R10): a frame element is one 16-bit RGB565 pixel,
a command and a response are one 64-bit word each.
-/

namespace Sys2Proof

/-- One element of the frame or the backup memory, an RGB565 pixel (R10, R15, R51). -/
abbrev Pixel := BitVec 16

/-- One command word `CMD` (R80). -/
abbrev CmdWord := BitVec 64

/-- One response word `RSP` (R90). -/
abbrev RspWord := BitVec 64

end Sys2Proof
end

