-- ==== Sys2Proof/Config.lean ====
section
/-!
DEFINITION. What an implementation fixes (spec/00_scope.md R7) and the model's one source of free values.
-/

namespace Sys2Proof

/-- The frame geometry, fixed when the block is built (R7): width and height in pixels, row stride in 16-bit
elements. -/
structure Config where
  W : Nat
  H : Nat
  S : Nat
  deriving DecidableEq, Repr

/-- The geometry the document states: 320 x 240 with stride 512 (R7). -/
def Config.documented : Config := { W := 320, H := 240, S := 512 }

/-- FREE VALUE: what draw number `n` gives for the element at offset `o`, wherever the spec asks for a free draw
(70_reset_and_hazards.md R221; 20_memory.md R62). It has no body: nothing is known of any value of it.
Log entry 13. -/
opaque Config.freeElement (n o : Nat) : Pixel

end Sys2Proof
end

