-- ==== Sys2Proof/Syntax.lean ====
section
/-!
DEFINITION. The commands of the opcode map (spec/30_encoding.md R86), one constructor per row of the opcode table.
A constructor holds the operands its command reads (R85); fields a command ignores are not part of it.
-/

namespace Sys2Proof

/-- The twelve commands (R86). Coordinates are the naturals the fields stand for (R83), column first (R92);
`data` is the pixel of a WRITE as it stands in the word (R84). -/
inductive Instr where
  | status
  | addr (x y : Nat)
  | read (x y : Nat)
  | write (x y : Nat) (data : Pixel)
  | fliph
  | mirrv
  | invert
  | gray
  | gtoggle
  | gapply
  | grestore
  | newframe
  deriving DecidableEq, Repr

end Sys2Proof
end

