-- ==== Sys2Proof/WellFormed.lean ====
section
/-!
DEFINITION. Which commands have an encoding and which configurations a block can be built from.
-/

namespace Sys2Proof

/-- An operand that fits its 16-bit field; one above 65535 is an assembly error and has no encoding
(spec/30_encoding.md R92). -/
def fitsField (n : Nat) : Bool := decide (n < 65536)

/-- A command that has an encoding: each coordinate fits its field (R83, R92). -/
def Instr.wf (i : Instr) : Bool :=
  match i with
  | .status => true
  | .addr x y => fitsField x && fitsField y
  | .read x y => fitsField x && fitsField y
  | .write x y _ => fitsField x && fitsField y
  | .fliph => true
  | .mirrv => true
  | .invert => true
  | .gray => true
  | .gtoggle => true
  | .gapply => true
  | .grestore => true
  | .newframe => true

/-- A configuration a block can be built from (spec/00_scope.md R8). -/
def Config.wf (c : Config) : Bool :=
  decide (1 ≤ c.W) && decide (1 ≤ c.H) && decide (c.W ≤ c.S) && decide (c.W ≤ 65536) && decide (c.H ≤ 65536) &&
    decide (c.H * c.S ≤ 2 ^ 32)

end Sys2Proof
end

