-- ==== Sys2Proof/Decode.lean ====
section
/-!
DEFINITION. The decoder of the 64-bit command word (spec/30_encoding.md R80 to R89) and, after it, the encoder (R93).
-/

namespace Sys2Proof

/-- `OP = cmd[63:60]` (R80, R81). -/
def fieldOp (w : CmdWord) : BitVec 4 := w.extractLsb' 60 4

/-- `RSV = cmd[59:48]` (R80, R82). -/
def fieldRsv (w : CmdWord) : BitVec 12 := w.extractLsb' 48 12

/-- `Y = cmd[47:32]` (R80). -/
def fieldY (w : CmdWord) : BitVec 16 := w.extractLsb' 32 16

/-- `X = cmd[31:16]` (R80). -/
def fieldX (w : CmdWord) : BitVec 16 := w.extractLsb' 16 16

/-- `DATA = cmd[15:0]` (R80, R84). -/
def fieldData (w : CmdWord) : Pixel := w.extractLsb' 0 16

/-- Why a word is no command; both make the block raise IllegalCommand (R82, R87). -/
inductive Illegal where
  /-- `RSV` is not zero (R82). -/
  | reservedBits
  /-- `OP` is one of `0xC` to `0xF` (R87). -/
  | reservedOpcode
  deriving DecidableEq, Repr

/-- The command a word with clear reserved bits stands for (R86, R89); coordinates are zero-extended (R83). -/
def decodeOp (w : CmdWord) : Except Illegal Instr :=
  match (fieldOp w).toNat with
  | 0x0 => .ok .status
  | 0x1 => .ok (.addr (fieldX w).toNat (fieldY w).toNat)
  | 0x2 => .ok (.read (fieldX w).toNat (fieldY w).toNat)
  | 0x3 => .ok (.write (fieldX w).toNat (fieldY w).toNat (fieldData w))
  | 0x4 => .ok .fliph
  | 0x5 => .ok .mirrv
  | 0x6 => .ok .invert
  | 0x7 => .ok .gray
  | 0x8 => .ok .gtoggle
  | 0x9 => .ok .gapply
  | 0xA => .ok .grestore
  | 0xB => .ok .newframe
  | _ => .error .reservedOpcode

/-- Decoding, total on every 64-bit word (R89): reserved bits first, then the opcode. -/
def decode (w : CmdWord) : Except Illegal Instr :=
  if fieldRsv w = 0 then decodeOp w else .error .reservedBits

/-- The opcode number of a command (R86). -/
def Instr.opcode (i : Instr) : Nat :=
  match i with
  | .status => 0x0
  | .addr _ _ => 0x1
  | .read _ _ => 0x2
  | .write _ _ _ => 0x3
  | .fliph => 0x4
  | .mirrv => 0x5
  | .invert => 0x6
  | .gray => 0x7
  | .gtoggle => 0x8
  | .gapply => 0x9
  | .grestore => 0xA
  | .newframe => 0xB

/-- The word with the given fields and `RSV = 0` (R80). -/
def packCmd (op : Nat) (x y : Nat) (data : Pixel) : CmdWord :=
  BitVec.ofNat 4 op ++ (0#12 ++ (BitVec.ofNat 16 y ++ (BitVec.ofNat 16 x ++ data)))

/-- The word of a command; fields it does not name are zero (R92, R93). -/
def encode (i : Instr) : CmdWord :=
  match i with
  | .status => packCmd 0x0 0 0 0
  | .addr x y => packCmd 0x1 x y 0
  | .read x y => packCmd 0x2 x y 0
  | .write x y data => packCmd 0x3 x y data
  | .fliph => packCmd 0x4 0 0 0
  | .mirrv => packCmd 0x5 0 0 0
  | .invert => packCmd 0x6 0 0 0
  | .gray => packCmd 0x7 0 0 0
  | .gtoggle => packCmd 0x8 0 0 0
  | .gapply => packCmd 0x9 0 0 0
  | .grestore => packCmd 0xA 0 0 0
  | .newframe => packCmd 0xB 0 0 0

/-- The assembler's encoding function `enc(op, x, y, data)` as R93 writes it. -/
def enc (op x y data : Nat) : Nat := op * 2 ^ 60 + y * 2 ^ 32 + x * 2 ^ 16 + data

/-- The 64-bit word that `nbits` bits of the opcode table's numbering stand for, the bits above them zero; none
for more bits than a command has (R88). A command is one word, so its bit 0 is the table's bit 0. Log entry 25. -/
def tableWord (nbits w : Nat) : Option CmdWord :=
  if nbits ≤ 64 then some (BitVec.ofNat 64 (w % 2 ^ nbits)) else none

/-- What the decoder reads from an instruction of the opcode table. -/
def decodeTableWord (nbits w : Nat) : Option Instr :=
  match tableWord nbits w with
  | some v =>
    match decode v with
    | .ok i => some i
    | .error _ => none
  | none => none

end Sys2Proof
end

