-- ==== Sys2Proof/Machine/State.lean ====
section
/-!
DEFINITION. The machine's state (spec/10_state.md R20 to R34), the moves of its environment, its stops, and the state
after reset.
-/

namespace Sys2Proof.Machine

/-- The document's ToggleState (R23): 0 = Color, 1 = Grayscale. -/
inductive ToggleState where
  | color
  | grayscale
  deriving DecidableEq, Repr

/-- The errors a response can name (spec/60_exceptions.md R191). `invalidDimension` has a number but no response
carries it: the configuration is refused instead (R193). -/
inductive Err where
  | invalidCoordinate
  | invalidDimension
  | stateMisuse
  | illegalCommand
  deriving DecidableEq, Repr

/-- A memory of 16-bit elements: the elements that differ from what an unlisted one reads as, by rising offset.
The unit of address is one element, not a byte (R51). Log entries 3 and 4. -/
abbrev Memory := List (Nat × Pixel)

/-- One move of the environment: the host, the camera, or the reset line (R13, R32, R95, R232). Log entry 8. -/
inductive Move where
  /-- A clock edge passes: the handshake or the command goes on as the signals allow (R60, R96). -/
  | go
  /-- The host raises or lowers `cmd_valid` for the commands it has left (R95). -/
  | setValid (v : Bool)
  /-- The host raises or lowers `rsp_ready` (R95). -/
  | setReady (v : Bool)
  /-- `set_capture_enabled(v)` (R32). -/
  | setCapture (v : Bool)
  /-- The camera DMA writes one element, of its own choice of offset and value (R32, R62). -/
  | camera (offset : Nat) (value : Pixel)
  /-- The reset line goes to `v` (R220). -/
  | setRst (v : Bool)
  deriving DecidableEq, Repr

/-- Why the machine stops. -/
inductive Fault where
  /-- An access to an offset at or above `H*S`, which does not exist (R25, R53). Raised by the frame port and by a
  camera move; no command of a well-formed configuration raises it. Safe. -/
  | noSuchElement
  /-- The host never takes the pending response: the block has no step (60_exceptions.md R202, I21). Raised by the
  step when a response is pending, `rsp_ready` is low and no move is left. Safe. -/
  | responseNeverTaken
  deriving DecidableEq, Repr

/-- Why the model declines to run. -/
inductive Refusal where
  /-- An instruction that has no meaning yet, by its mnemonic; raised by no arm of this model. Safe. -/
  | notModelled (mnemonic : String)
  /-- InvalidDimension: a configuration that is not well formed is refused and no machine is built from it
  (00_scope.md R8, 60_exceptions.md R193, R202). Raised by the build and by the step. Safe. -/
  | invalidDimension
  deriving DecidableEq, Repr

/-- Everything the spec gives the machine (R20), with the host's program (R22) and the environment's moves. -/
structure State where
  /-- `W`, `H`, `S`, fixed at build (R7); held here so that a claim quantifies over configurations. Log entry 1. -/
  cfg : Config
  /-- `TSTATE` (R23). -/
  tstate : ToggleState
  /-- `FB`, the frame memory (R25). -/
  fb : Memory
  /-- `BB`, the backup memory (R27). -/
  bb : Memory
  /-- `BUSY` (R30). -/
  busy : Bool
  /-- The command word taken at the accept step, meaningful while `busy` (R60). Log entry 7. -/
  cmd : CmdWord
  /-- The response offered and not yet taken, if any (R30, R96). -/
  rsp : Option RspWord
  /-- The input `rst` (R95, R220). -/
  rst : Bool
  /-- The host's `cmd_valid` for the commands it has left (R95). Log entry 6. -/
  cmdValid : Bool
  /-- The host's `rsp_ready` (R95). Log entry 6. -/
  rspReady : Bool
  /-- `capture_en`, host state (R32). -/
  captureEn : Bool
  /-- `CAPTURE_OVERLAP`, the model's fault mark (R33). -/
  captureOverlap : Bool
  /-- The host's list of commands (R22). -/
  prog : List CmdWord
  /-- The index of the next command (R22). -/
  k : Nat
  /-- What the environment does next, in order; the model's own field. Log entry 8. -/
  moves : List Move
  /-- How many free draws have been made; the model's own field. Log entry 13. -/
  draws : Nat
  deriving DecidableEq, Repr

/-- The block right after reset with the launch parameters the spec leaves open: the configuration (R7), the content
of both memories (R25, R34) and `capture_en` (R32). -/
def State.launch (cfg : Config) (fb bb : Memory) (captureEn : Bool) : State :=
  { cfg := cfg, tstate := .color, fb := fb, bb := bb, busy := false, cmd := 0, rsp := none, rst := false,
    cmdValid := true, rspReady := true, captureEn := captureEn, captureOverlap := false, prog := [], k := 0,
    moves := [], draws := 0 }

/-- The machine right after reset (R34, R220): the documented geometry, nothing listed in either memory, capture
disabled as the boot sequence leaves it (R223). Log entries 4 to 9. -/
def State.reset : State := State.launch Config.documented [] [] false

end Sys2Proof.Machine
end

