-- ==== Sys2Proof/Machine/Flags.lean ====
section
/-!
DEFINITION. The block's only flag, TSTATE (spec/10_state.md R24), the error codes (60_exceptions.md R191) and the
response word that reports both (30_encoding.md R90).
-/

namespace Sys2Proof.Machine

/-- The encoding of TSTATE (R23). -/
def ToggleState.bit (t : ToggleState) : BitVec 1 :=
  match t with
  | .color => 0
  | .grayscale => 1

/-- The code of an error in the `ERR` field (R191). -/
def Err.code (e : Err) : BitVec 4 :=
  match e with
  | .invalidCoordinate => 1
  | .invalidDimension => 2
  | .stateMisuse => 3
  | .illegalCommand => 4

/-- `RSP = zext_64({STATE, ERR, RESULT})` (R90). -/
def rspWord (t : ToggleState) (err : BitVec 4) (result : BitVec 32) : RspWord :=
  0#27 ++ (t.bit ++ (err ++ result))

/-- `rsp[63:37]`, always 0 (R90). -/
def rspReserved (r : RspWord) : BitVec 27 := r.extractLsb' 37 27

/-- `STATE = rsp[36]` (R90). -/
def rspState (r : RspWord) : BitVec 1 := r.extractLsb' 36 1

/-- `ERR = rsp[35:32]` (R90). -/
def rspErr (r : RspWord) : BitVec 4 := r.extractLsb' 32 4

/-- `RESULT = rsp[31:0]` (R90). -/
def rspResult (r : RspWord) : BitVec 32 := r.extractLsb' 0 32

/-- `cmd_ready`: not busy and not held in reset (R95, R220). -/
def State.cmdReady (s : State) : Bool := !s.busy && !s.rst

/-- `rsp_valid`: a response is pending and the block is not held in reset (R95, R220). -/
def State.rspValid (s : State) : Bool := s.rsp.isSome && !s.rst

end Sys2Proof.Machine
end

