-- ==== Sys2Proof/Machine/Operands.lean ====
section
/-!
DEFINITION. Coordinates and offsets: the pixel_addresser unit (spec/40_addressing_port.md R110 to R112) and the sizes
derived from the geometry (00_scope.md R9).
-/

namespace Sys2Proof

/-- `FB_DEPTH` and `BB_DEPTH`, the number of elements of each memory (R9). -/
def Config.depth (c : Config) : Nat := c.H * c.S

/-- `off(x, y)` (R110). -/
def Config.off (c : Config) (x y : Nat) : Nat := y * c.S + x

/-- `in_bounds(x, y)`, membership in `Logical` (R14, R111). -/
def Config.inBounds (c : Config) (x y : Nat) : Bool := decide (x < c.W) && decide (y < c.H)

/-- The column of an offset (R58). -/
def Config.colOf (c : Config) (o : Nat) : Nat := o % c.S

/-- The row of an offset (R58). -/
def Config.rowOf (c : Config) (o : Nat) : Nat := o / c.S

/-- The offset is that of a logical pixel; the other offsets of the frame are padding (R9, R26). -/
def Config.isLogical (c : Config) (o : Nat) : Bool := c.inBounds (c.colOf o) (c.rowOf o)

/-- The logical pixels, row by row (R9, R14). -/
def Config.logicalPixels (c : Config) : List (Nat × Nat) :=
  (List.range c.H).flatMap (fun y => (List.range c.W).map (fun x => (x, y)))

namespace Machine

/-- The outputs of the pixel_addresser unit (R97). -/
structure AddresserOut where
  offset : BitVec 32
  inBounds : Bool
  deriving DecidableEq, Repr

/-- The pixel_addresser unit; it computes `offset` whatever `in_bounds` is (R97, R110, R111). DESIGN CHOICE: for a
pair outside `Logical` whose `y * S + x` is 2^32 or more, the 32-bit output is that number modulo 2^32; the spec says
only that a logical pair fits, and no command uses the output for another pair. Log entry 26. -/
def pixelAddresser (c : Config) (x y : Nat) : AddresserOut :=
  { offset := BitVec.ofNat 32 (c.off x y), inBounds := c.inBounds x y }

end Machine

end Sys2Proof
end

