-- ==== Sys2Proof/Machine/Ops.lean ====
section
/-!
DEFINITION. The shared operations: memory elements, the ports of the two memories, whole-frame sweeps through them,
free draws, and how a command ends (`respond`, or `raise`, the one way an error is reported:
spec/60_exceptions.md R190; there is no trap entry and no return, R199, R200).
-/

namespace Sys2Proof.Machine

/-! ### Memory elements -/

/-- What an element that is not listed reads as. DESIGN CHOICE: the spec gives no content. Log entry 4. -/
def Memory.blank : Pixel := 0

/-- `FB[o]`, `BB[o]` (R14, R53, R54). -/
def Memory.get (m : Memory) (o : Nat) : Pixel :=
  match m with
  | [] => Memory.blank
  | (a, v) :: rest => if a = o then v else Memory.get rest o

/-- The entry that gives element `o` the value `v`: none when `v` is what an unlisted element reads as. -/
def Memory.entry (o : Nat) (v : Pixel) : Memory :=
  if v = Memory.blank then [] else [(o, v)]

/-- `FB[o] <- v`, `BB[o] <- v`: the whole element is replaced (R53, R54). -/
def Memory.set (m : Memory) (o : Nat) (v : Pixel) : Memory :=
  m.filter (fun c => decide (c.1 < o)) ++ (Memory.entry o v ++ m.filter (fun c => decide (o < c.1)))

/-- The memory whose elements below `n` are given by `f` and whose other elements are those of `m`. -/
def Memory.rewrite (m : Memory) (n : Nat) (f : Nat → Pixel) : Memory :=
  (List.range n).flatMap (fun o => Memory.entry o (f o)) ++ m.filter (fun c => decide (n ≤ c.1))

/-- The canonical form: offsets strictly rising, no entry equal to what an unlisted element reads as. -/
abbrev Memory.wf (m : Memory) : Prop :=
  m.Pairwise (fun a b => a.1 < b.1) ∧ ∀ c ∈ m, c.2 ≠ Memory.blank

/-- Every listed element exists: its offset is below `n` (R9). -/
abbrev Memory.below (m : Memory) (n : Nat) : Prop := ∀ c ∈ m, c.1 < n

/-! ### The ports of the two memories (20_memory.md R52 to R54) -/

/-- One request on a memory port: an enable, a write flag, an element offset and write data (R52; the wires `fb_en`,
`fb_we`, `fb_addr` and `fb_wdata` of 30_encoding.md R95). -/
structure PortRequest where
  en : Bool
  we : Bool
  addr : BitVec 32
  wdata : Pixel
  deriving DecidableEq, Repr

/-- What a request comes to: the memory after it and, for a read, the data on `fb_rdata` (R52, R53). -/
structure PortAnswer where
  mem : Memory
  rdata : Option Pixel
  deriving DecidableEq, Repr

/-- No access in this cycle. DESIGN CHOICE: the other wires, which the spec leaves open while `fb_en` is low, are 0; no
answer depends on them. Log entry 27. -/
def noRequest : PortRequest := { en := false, we := false, addr := 0, wdata := 0 }

/-- The request of a read. DESIGN CHOICE: `fb_wdata`, which the spec leaves open during a read, is 0; no answer depends
on it. Log entry 27. -/
def readRequest (a : BitVec 32) : PortRequest := { en := true, we := false, addr := a, wdata := 0 }

/-- The request of a write. -/
def writeRequest (a : BitVec 32) (v : Pixel) : PortRequest := { en := true, we := true, addr := a, wdata := v }

/-- One request to a memory of `n` elements: a read returns the whole element, a write replaces it, a request without
the enable does nothing (R52, R53; the same for the backup's private port, R54). An offset that does not exist is
answered with no data and no write. -/
def portAccess (n : Nat) (m : Memory) (q : PortRequest) : PortAnswer :=
  if q.en && decide (q.addr.toNat < n) then
    if q.we then { mem := Memory.set m q.addr.toNat q.wdata, rdata := none }
    else { mem := m, rdata := some (Memory.get m q.addr.toNat) }
  else { mem := m, rdata := none }

/-- The two sources that drive frame_buffer_rw_port: the host-access path (READ, WRITE) and the transform sequencer
(FLIPH, MIRRV, INVERT, GRAY and the toggle transitions) (R52). -/
inductive PortSource where
  | hostAccess
  | sequencer
  deriving DecidableEq, Repr

/-- The multiplexer in front of frame_buffer_rw_port (R52). -/
def portMux (src : PortSource) (host seq : PortRequest) : PortRequest :=
  match src with
  | .hostAccess => host
  | .sequencer => seq

/-- A request on frame_buffer_rw_port from the source that the executing command selects; the other source makes no
request in the same cycle (R52). -/
def framePort (src : PortSource) (n : Nat) (m : Memory) (q : PortRequest) : PortAnswer :=
  match src with
  | .hostAccess => portAccess n m (portMux src q noRequest)
  | .sequencer => portAccess n m (portMux src noRequest q)

/-- The writes of a sweep over the logical pixels, `(x, y)` getting `g x y`; no padding is named (R26, R137). -/
def sweepRequests (c : Config) (g : Nat → Nat → Pixel) : List PortRequest :=
  c.logicalPixels.map (fun p => writeRequest (pixelAddresser c p.1 p.2).offset (g p.1 p.2))

/-- The memory after a list of requests, in order. -/
def runRequests (port : Memory → PortRequest → PortAnswer) (m : Memory) (qs : List PortRequest) : Memory :=
  qs.foldl (fun m q => (port m q).mem) m

/-- The sequencer writes every logical pixel of the frame, through frame_buffer_rw_port (R52, R137). -/
def frameSweep (c : Config) (m : Memory) (g : Nat → Nat → Pixel) : Memory :=
  runRequests (framePort .sequencer c.depth) m (sweepRequests c g)

/-- The toggle sequencer writes every logical pixel of the backup, through its private port (R54, R161). -/
def backupSweep (c : Config) (m : Memory) (g : Nat → Nat → Pixel) : Memory :=
  runRequests (portAccess c.depth) m (sweepRequests c g)

/-- The data of a sequencer's read. Its offsets exist in every well-formed configuration (R53), so the data is there;
log entry 20. -/
def readData (r : PortAnswer) : Pixel := r.rdata.getD Memory.blank

/-- The sequencer reads pixel `(x, y)` of the frame, through frame_buffer_rw_port (R52). -/
def frameRead (c : Config) (m : Memory) (x y : Nat) : Pixel :=
  readData (framePort .sequencer c.depth m (readRequest (pixelAddresser c x y).offset))

/-- The toggle sequencer reads pixel `(x, y)` of the backup, through its private port: `BBRead` (R54). -/
def backupRead (c : Config) (m : Memory) (x y : Nat) : Pixel :=
  readData (portAccess c.depth m (readRequest (pixelAddresser c x y).offset))

/-! ### Named updates of the state -/

/-- Replace the frame memory. -/
def State.setFb (s : State) (m : Memory) : State := { s with fb := m }

/-- Replace the backup memory. -/
def State.setBb (s : State) (m : Memory) : State := { s with bb := m }

/-- `TSTATE <- t`. -/
def State.setTstate (s : State) (t : ToggleState) : State := { s with tstate := t }

/-- Offer a response word. -/
def State.setRsp (s : State) (r : RspWord) : State := { s with rsp := some r }

/-! ### The host-access path -/

/-- `MemRead(o, 16)` by the host-access path: the whole element, none for an offset that does not exist
(20_memory.md R52, R53). -/
def memRead (s : State) (a : BitVec 32) : Option Pixel :=
  (framePort .hostAccess s.cfg.depth s.fb (readRequest a)).rdata

/-- `MemWrite(o, 16, v)` by the host-access path: the whole element, none for an offset that does not exist
(R52, R53). -/
def memWrite (s : State) (a : BitVec 32) (v : Pixel) : Option State :=
  if a.toNat < s.cfg.depth then some (s.setFb (framePort .hostAccess s.cfg.depth s.fb (writeRequest a v)).mem)
  else none

/-! ### How a command ends -/

/-- `respond(r)`: the command ends with `ERR = 0`; `STATE` is TSTATE after the command (R14, R91). -/
def respond (r : BitVec 32) (s : State) : Host.Outcome State Fault Refusal :=
  .next (s.setRsp (rspWord s.tstate 0 r))

/-- `raise E`: the command ends with the error's code, `RESULT = 0` and no state changed (R14, R190, R196). -/
def raise (e : Err) (s : State) : Host.Outcome State Fault Refusal :=
  .next (s.setRsp (rspWord s.tstate e.code 0))

/-- Run `f` on the offset of pixel `(x, y)`, after the bounds check that precedes every memory access (R111). -/
def atPixel (x y : Nat) (s : State) (f : BitVec 32 → Host.Outcome State Fault Refusal) :
    Host.Outcome State Fault Refusal :=
  if (pixelAddresser s.cfg x y).inBounds then f (pixelAddresser s.cfg x y).offset
  else raise .invalidCoordinate s

/-! ### Free draws -/

/-- A free draw of every frame element `o` that `p` picks (R221, R62). -/
def drawFb (p : Nat → Bool) (s : State) : State :=
  { s with
    fb := Memory.rewrite s.fb s.cfg.depth
      (fun o => if p o then Config.freeElement s.draws o else Memory.get s.fb o)
    draws := s.draws + 1 }

/-- A free draw of every backup element (R221). -/
def drawBb (s : State) : State :=
  { s with
    bb := Memory.rewrite s.bb s.cfg.depth (Config.freeElement s.draws)
    draws := s.draws + 1 }

/-! ### Building the machine -/

/-- Build the block from a geometry and its launch parameters; an ill-formed geometry is refused, which is how
InvalidDimension is realised (00_scope.md R8, R193). -/
def State.build (cfg : Config) (fb bb : Memory) (captureEn : Bool) : Except Refusal State :=
  if cfg.wf then .ok (State.launch cfg fb bb captureEn) else .error .invalidDimension

/-- The machine with a program for the host to send from its start (10_state.md R22). Log entry 9. -/
def State.withProgram (s : State) (p : List CmdWord) : State := { s with prog := p, k := 0 }

end Sys2Proof.Machine
end

