-- ==== Sys2Proof/Machine/Port.lean ====
section
/-!
DEFINITION. ADDR, READ and WRITE (spec/40_addressing_port.md R113 to R115).
-/

namespace Sys2Proof.Machine

/-- ADDR: the offset of pixel `(x, y)` (R113). -/
def execAddr (x y : Nat) (s : State) : Host.Outcome State Fault Refusal :=
  atPixel x y s (fun a => respond a s)

/-- READ: one logical pixel through the frame port (R114). -/
def execRead (x y : Nat) (s : State) : Host.Outcome State Fault Refusal :=
  atPixel x y s (fun a =>
    match memRead s a with
    | some p => respond (p.zeroExtend 32) s
    | none => .fault .noSuchElement)

/-- WRITE: one logical pixel through the frame port (R115). -/
def execWrite (x y : Nat) (data : Pixel) (s : State) : Host.Outcome State Fault Refusal :=
  atPixel x y s (fun a =>
    match memWrite s a data with
    | some t => respond 0 t
    | none => .fault .noSuchElement)

end Sys2Proof.Machine
end

