-- ==== Sys2Proof/Machine/Pixel.lean ====
section
/-!
DEFINITION. The two per-pixel units rgb565_invert_colors and rgb565_to_grayscale (spec/41_pixel_transforms.md R130 to
R133), on exact naturals with truncating division (00_scope.md R12).
-/

namespace Sys2Proof.Machine

/-- `red(p) = p[15:11]` (R15). -/
def red (p : Pixel) : Nat := (p.extractLsb' 11 5).toNat

/-- `green(p) = p[10:5]` (R15). -/
def green (p : Pixel) : Nat := (p.extractLsb' 5 6).toNat

/-- `blue(p) = p[4:0]` (R15). -/
def blue (p : Pixel) : Nat := (p.extractLsb' 0 5).toNat

/-- `pack(r, g, b) = {r[4:0], g[5:0], b[4:0]}` (R15). -/
def pack (r g b : Nat) : Pixel := BitVec.ofNat 5 r ++ (BitVec.ofNat 6 g ++ BitVec.ofNat 5 b)

/-- `inv(p)`, each channel against its maximum (R131). -/
def inv (p : Pixel) : Pixel := pack (31 - red p) (63 - green p) (31 - blue p)

/-- The upscale of a 5-bit channel, `c * 255 / 31` (R132, R135). -/
def up5 (c : Nat) : Nat := (c * 255) / 31

/-- The upscale of a 6-bit channel, `g * 255 / 63` (R132, R135). -/
def up6 (g : Nat) : Nat := (g * 255) / 63

/-- The luminance of a pixel given by its channels (R132). -/
def lumaOf (r g b : Nat) : Nat := (up5 r * 299 + up6 g * 587 + up5 b * 114) / 1000

/-- The luminance `L` of a pixel (R132). -/
def luma (p : Pixel) : Nat := lumaOf (red p) (green p) (blue p)

/-- The gray pixel of a luminance (R132, R136). -/
def shade (l : Nat) : Pixel := pack ((l * 31) / 255) ((l * 63) / 255) ((l * 31) / 255)

/-- `gray(p)` (R132). -/
def gray (p : Pixel) : Pixel := shade (luma p)

end Sys2Proof.Machine
end

