-- ==== Sys2Proof/Machine/Transform.lean ====
section
/-!
DEFINITION. FLIPH, MIRRV, INVERT and GRAY by their closed forms (spec/41_pixel_transforms.md R137, R138, R140 to R143):
the sequencer reads and writes the frame through frame_buffer_rw_port. Beside them the swap loops the document describes.
-/

namespace Sys2Proof.Machine

/-- The frame reflected left to right (R140). -/
def flipped (c : Config) (m : Memory) : Memory :=
  frameSweep c m (fun x y => frameRead c m (c.W - 1 - x) y)

/-- The frame reflected top to bottom (R141). -/
def mirrored (c : Config) (m : Memory) : Memory :=
  frameSweep c m (fun x y => frameRead c m x (c.H - 1 - y))

/-- The frame with `f` applied to every logical pixel (R142, R143). -/
def pixelwise (c : Config) (f : Pixel → Pixel) (m : Memory) : Memory :=
  frameSweep c m (fun x y => f (frameRead c m x y))

/-- FLIPH (R140). -/
def execFliph (s : State) : Host.Outcome State Fault Refusal :=
  respond 0 (s.setFb (flipped s.cfg s.fb))

/-- MIRRV (R141). -/
def execMirrv (s : State) : Host.Outcome State Fault Refusal :=
  respond 0 (s.setFb (mirrored s.cfg s.fb))

/-- INVERT (R142). -/
def execInvert (s : State) : Host.Outcome State Fault Refusal :=
  respond 0 (s.setFb (pixelwise s.cfg inv s.fb))

/-- GRAY: no backup, no change of TSTATE (R143). -/
def execGray (s : State) : Host.Outcome State Fault Refusal :=
  respond 0 (s.setFb (pixelwise s.cfg gray s.fb))

/-! ### The document's loops -/

/-- Exchange two elements. -/
def Memory.swap (m : Memory) (a b : Nat) : Memory :=
  Memory.set (Memory.set m a (Memory.get m b)) b (Memory.get m a)

/-- Make a list of exchanges, in order. -/
def Memory.swapAll (m : Memory) (ps : List (Nat × Nat)) : Memory :=
  ps.foldl (fun m p => Memory.swap m p.1 p.2) m

/-- The exchanges of FLIPH in the document's order: for each row, for `x` below `W/2` (R138 to R140). -/
def flipSwaps (c : Config) : List (Nat × Nat) :=
  (List.range c.H).flatMap (fun y =>
    (List.range (c.W / 2)).map (fun x => (c.off x y, c.off (c.W - 1 - x) y)))

/-- The exchanges of MIRRV in the document's order: for `y` below `H/2`, for each column (R138, R139, R141). -/
def mirrorSwaps (c : Config) : List (Nat × Nat) :=
  (List.range (c.H / 2)).flatMap (fun y =>
    (List.range c.W).map (fun x => (c.off x y, c.off x (c.H - 1 - y))))

end Sys2Proof.Machine
end

