-- ==== Sys2Proof/Machine/Toggle.lean ====
section
/-!
DEFINITION. The grayscale_toggle_fsm unit: GTOGGLE, GAPPLY, GRESTORE, NEWFRAME and STATUS
(spec/42_grayscale_toggle.md R160 to R170).
-/

namespace Sys2Proof.Machine

/-- `T_apply`: back up the logical pixels, convert them, go to Grayscale (R161). -/
def toggleApply (s : State) : State :=
  ((s.setBb (backupSweep s.cfg s.bb (frameRead s.cfg s.fb))).setFb (pixelwise s.cfg gray s.fb)).setTstate .grayscale

/-- `T_restore`: copy the logical pixels back, go to Color, leave the backup as it is (R162). -/
def toggleRestore (s : State) : State :=
  (s.setFb (frameSweep s.cfg s.fb (backupRead s.cfg s.bb))).setTstate .color

/-- GTOGGLE: the transition that TSTATE selects (R163). -/
def execGtoggle (s : State) : Host.Outcome State Fault Refusal :=
  match s.tstate with
  | .color => respond 0 (toggleApply s)
  | .grayscale => respond 0 (toggleRestore s)

/-- GAPPLY: StateMisuse in Grayscale (R164). -/
def execGapply (s : State) : Host.Outcome State Fault Refusal :=
  match s.tstate with
  | .color => respond 0 (toggleApply s)
  | .grayscale => raise .stateMisuse s

/-- GRESTORE: StateMisuse in Color (R165). -/
def execGrestore (s : State) : Host.Outcome State Fault Refusal :=
  match s.tstate with
  | .color => raise .stateMisuse s
  | .grayscale => respond 0 (toggleRestore s)

/-- NEWFRAME: TSTATE returns to Color, nothing else changes (R167). -/
def execNewframe (s : State) : Host.Outcome State Fault Refusal :=
  respond 0 (s.setTstate .color)

/-- STATUS: report TSTATE, no other effect (R170). -/
def execStatus (s : State) : Host.Outcome State Fault Refusal :=
  respond 0 s

end Sys2Proof.Machine
end

