-- ==== Sys2Proof/Machine/Dispatch.lean ====
section
/-!
DEFINITION. One arm per command (spec/30_encoding.md R86).
-/

namespace Sys2Proof.Machine

def exec (i : Instr) (s : State) : Host.Outcome State Fault Refusal :=
  match i with
  | .status => Sys2Proof.Machine.execStatus s
  | .addr x y => Sys2Proof.Machine.execAddr x y s
  | .read x y => Sys2Proof.Machine.execRead x y s
  | .write x y data => Sys2Proof.Machine.execWrite x y data s
  | .fliph => Sys2Proof.Machine.execFliph s
  | .mirrv => Sys2Proof.Machine.execMirrv s
  | .invert => Sys2Proof.Machine.execInvert s
  | .gray => Sys2Proof.Machine.execGray s
  | .gtoggle => Sys2Proof.Machine.execGtoggle s
  | .gapply => Sys2Proof.Machine.execGapply s
  | .grestore => Sys2Proof.Machine.execGrestore s
  | .newframe => Sys2Proof.Machine.execNewframe s

end Sys2Proof.Machine
end

