-- ==== Sys2Proof/Machine/Handshake.lean ====
section
/-!
DEFINITION. The command's two steps and the handshake around them (spec/20_memory.md R60, 30_encoding.md R96), the
moves of host, camera and reset line (10_state.md R32, R33, 70_reset_and_hazards.md R220, R221), and the step of the
whole system. DEDUCED and DESIGN CHOICE points: log entries 8 to 19.
-/

namespace Sys2Proof.Machine

/-- Apply `f` to a next state; a stop stays a stop. -/
def onNext (f : State → State) (r : Host.Outcome State Fault Refusal) : Host.Outcome State Fault Refusal :=
  match r with
  | .next s => .next (f s)
  | .fault e => .fault e
  | .refused e => .refused e

/-! ### Capture overlap -/

/-- Capture and a command overlap: the mark is set and the frame has no known content (R33, R62). Log entry 10. -/
def overlap (s : State) : State :=
  drawFb (fun _ => true) { s with captureOverlap := true }

/-! ### Accept, complete, take -/

/-- The accept step: the block takes a command word and sets BUSY, and the index advances (R22, R30, R60). -/
def accept (w : CmdWord) (s : State) : State :=
  let t : State := { s with busy := true, cmd := w, k := s.k + 1 }
  if s.captureEn then overlap t else t

/-- What the accepted word does: the command it decodes to, or IllegalCommand, checked before everything else
(R89, R195, R198). -/
def runCommand (s : State) : Host.Outcome State Fault Refusal :=
  match decode s.cmd with
  | .ok i => exec i s
  | .error _ => raise .illegalCommand s

/-- The complete step: the whole command at once (R60). Where capture overlaps the command, what it reads from the
frame and what it leaves there are free values (R62). Log entry 10. -/
def complete (s : State) : Host.Outcome State Fault Refusal :=
  if s.captureEn || s.captureOverlap then onNext overlap (runCommand (overlap s)) else runCommand s

/-- The host takes the response and BUSY is cleared (R30, R60). -/
def takeResponse (s : State) : State := { s with rsp := none, busy := false }

/-- The idle block takes the host's next command, if the host offers one (R22, R96). -/
def offer (s : State) : State :=
  if s.cmdValid then
    match s.prog[s.k]? with
    | some w => accept w s
    | none => s
  else s

/-! ### Reset -/

/-- The frame elements a command could write, by the 'State written' line of its rule (R113 to R115, R137, R163 to
R167, R170). Log entry 11. -/
def mayWrite (c : Config) (i : Instr) (o : Nat) : Bool :=
  match i with
  | .status => false
  | .addr _ _ => false
  | .read _ _ => false
  | .write x y _ => c.inBounds x y && o == c.off x y
  | .fliph => c.isLogical o
  | .mirrv => c.isLogical o
  | .invert => c.isLogical o
  | .gray => c.isLogical o
  | .gtoggle => c.isLogical o
  | .gapply => c.isLogical o
  | .grestore => c.isLogical o
  | .newframe => false

/-- The frame elements the command in a word could write; an illegal word writes nothing (R82, R87). -/
def wordMayWrite (c : Config) (w : CmdWord) (o : Nat) : Bool :=
  match decode w with
  | .ok i => mayWrite c i o
  | .error _ => false

/-- What a reset edge leaves in the memories: free values where a command in flight could have written, nothing
changed when idle (R221). Log entries 11 and 12. -/
def abandon (s : State) : State :=
  if s.busy then drawBb (drawFb (wordMayWrite s.cfg s.cmd) s) else s

/-- A clock edge with `rst` high: every register of the block takes its reset value and no handshake is made
(R34, R220, R221). The level of the line is the host's. Log entry 19. -/
def resetBlock (s : State) : State :=
  { abandon s with tstate := .color, busy := false, cmd := 0, rsp := none }

/-! ### A clock edge -/

/-- One clock edge of the block and the channel: reset, or an offered command, the running command's
completion, or a pending response (R60, R96, R220). -/
def progress (s : State) : Host.Outcome State Fault Refusal :=
  if s.rst then .next (resetBlock s)
  else if s.busy then
    match s.rsp with
    | none => complete s
    | some _ => .next (if s.rspReady then takeResponse s else s)
  else .next (offer s)

/-! ### The environment's moves -/

/-- `set_capture_enabled(v)`; enabling capture while BUSY overlaps the command (R32, R33, R60). -/
def setCapture (v : Bool) (s : State) : State :=
  let t : State := { s with captureEn := v }
  if v && s.busy then overlap t else t

/-- A camera write: any element while capture is enabled, none otherwise (R32, R62). Log entry 14. -/
def cameraWrite (o : Nat) (v : Pixel) (s : State) : Host.Outcome State Fault Refusal :=
  if s.captureEn then
    if o < s.cfg.depth then .next (s.setFb (Memory.set s.fb o v)) else .fault .noSuchElement
  else .next s

/-- One move of the environment (R13, R32, R95, R220, R232). -/
def applyMove (m : Move) (s : State) : Host.Outcome State Fault Refusal :=
  match m with
  | .go => progress s
  | .setValid v => .next { s with cmdValid := v }
  | .setReady v => .next { s with rspReady := v }
  | .setCapture v => .next (setCapture v s)
  | .camera o v => cameraWrite o v s
  | .setRst v => .next { s with rst := v }

/-- The host will never take the pending response: no move is left and `rsp_ready` is low (R202, I21). -/
def State.stuck (s : State) : Bool := s.rspValid && !s.rspReady

/-- One step of the whole system: the environment's next move, or, when it has none, the next thing the block and the
host do. A machine is built from a well-formed configuration only (R8). Log entries 2, 8, 15, 16. -/
def systemStep (s : State) : Host.Outcome State Fault Refusal :=
  if s.cfg.wf then
    match s.moves with
    | m :: ms => applyMove m { s with moves := ms }
    | [] => if s.stuck then .fault .responseNeverTaken else progress s
  else .refused .invalidDimension

/-- The state whose next step runs the command in `w`: accepted, out of reset, with no response pending and no move
before it. Log entry 9. -/
def placeCommand (w : CmdWord) (s : State) : State :=
  { s with busy := true, cmd := w, rsp := none, rst := false, moves := [] }

end Sys2Proof.Machine
end

