-- ==== Sys2Proof/Machine/Step.lean ====
section
/-!
DEFINITION. The step (spec/20_memory.md R60, log entry 8) and the placing of one command for it.
-/

namespace Sys2Proof.Machine

/-- One step of the system. -/
def step (s : State) : Host.Outcome State Fault Refusal := systemStep s

/-- `s` with the opcode table's word as the accepted command, so that the next step runs it; `s` itself where the
table's bits are no command word. Log entries 9 and 25. -/
def State.withFetchWord (s : State) (nbits w : Nat) : State :=
  match tableWord nbits w with
  | some v => placeCommand v s
  | none => s

end Sys2Proof.Machine
end

