-- ==== Sys2Proof/Machine/Assembler.lean ====
section
/-!
DEFINITION. The assembly syntax of the host's command lists and its pseudo-instructions (spec/30_encoding.md R92 to
R94). Points of the text format that R92 leaves open: log entry 24.
-/

namespace Sys2Proof.Machine

/-- One line of assembly, operands as written (R92, R94). -/
inductive AsmLine where
  | status
  | addr (x y : Nat)
  | read (x y : Nat)
  | write (x y data : Nat)
  | fliph
  | mirrv
  | invert
  | gray
  | gtoggle
  | gapply
  | grestore
  | newframe
  | nop
  | rot180
  deriving DecidableEq, Repr

/-- Why a line cannot be assembled. -/
inductive AsmError where
  /-- No command and no pseudo-instruction has this name. -/
  | unknownMnemonic
  /-- An operand is no decimal and no `0x` number. -/
  | badNumber
  /-- The number of operands is not the mnemonic's. -/
  | operandCount
  /-- An operand above 65535 has no encoding (R92). -/
  | operandTooBig
  deriving DecidableEq, Repr

/-- Every operand is at most 65535 (R92). -/
def AsmLine.wf (l : AsmLine) : Bool :=
  match l with
  | .status => true
  | .addr x y => fitsField x && fitsField y
  | .read x y => fitsField x && fitsField y
  | .write x y data => fitsField x && fitsField y && fitsField data
  | .fliph => true
  | .mirrv => true
  | .invert => true
  | .gray => true
  | .gtoggle => true
  | .gapply => true
  | .grestore => true
  | .newframe => true
  | .nop => true
  | .rot180 => true

/-- The commands of a line: NOP is STATUS, ROT180 is FLIPH then MIRRV (R94). -/
def AsmLine.expand (l : AsmLine) : List Instr :=
  match l with
  | .status => [.status]
  | .addr x y => [.addr x y]
  | .read x y => [.read x y]
  | .write x y data => [.write x y (BitVec.ofNat 16 data)]
  | .fliph => [.fliph]
  | .mirrv => [.mirrv]
  | .invert => [.invert]
  | .gray => [.gray]
  | .gtoggle => [.gtoggle]
  | .gapply => [.gapply]
  | .grestore => [.grestore]
  | .newframe => [.newframe]
  | .nop => [.status]
  | .rot180 => [.fliph, .mirrv]

/-- The words of one line (R92). -/
def assembleLine (l : AsmLine) : Except AsmError (List CmdWord) :=
  if l.wf then .ok (l.expand.map encode) else .error .operandTooBig

/-- The words of a list of lines, in order; the first error ends the assembly. -/
def assemble (ls : List AsmLine) : Except AsmError (List CmdWord) :=
  match ls with
  | [] => .ok []
  | l :: rest =>
    match assembleLine l, assemble rest with
    | .error e, _ => .error e
    | .ok _, .error e => .error e
    | .ok ws, .ok more => .ok (ws ++ more)

/-! ### The text of a line -/

/-- White space inside a line. -/
def isBlank (c : Char) : Bool := c == ' ' || c == '\t'

/-- A text without the white space around it. -/
def trimBlanks (cs : List Char) : List Char :=
  ((cs.dropWhile isBlank).reverse.dropWhile isBlank).reverse

/-- The operands' texts, between the commas (R92). -/
def splitCommas (cs : List Char) : List (List Char) :=
  match cs with
  | [] => [[]]
  | c :: rest =>
    match splitCommas rest with
    | [] => [[c]]
    | t :: ts => if c == ',' then [] :: t :: ts else (c :: t) :: ts

/-- The value of a digit, decimal or hexadecimal. -/
def digitValue (c : Char) : Option Nat :=
  if '0' ≤ c ∧ c ≤ '9' then some (c.toNat - '0'.toNat)
  else if 'a' ≤ c ∧ c ≤ 'f' then some (c.toNat - 'a'.toNat + 10)
  else if 'A' ≤ c ∧ c ≤ 'F' then some (c.toNat - 'A'.toNat + 10)
  else none

/-- The number that digits of a base write, after the value `acc` of the digits before them. -/
def digitsValue (base acc : Nat) (cs : List Char) : Option Nat :=
  match cs with
  | [] => some acc
  | c :: rest =>
    match digitValue c with
    | some d => if d < base then digitsValue base (acc * base + d) rest else none
    | none => none

/-- A number: decimal, or hexadecimal with `0x` (R92). -/
def parseNumber (cs : List Char) : Except AsmError Nat :=
  let r :=
    match cs with
    | [] => none
    | ['0', 'x'] => none
    | '0' :: 'x' :: ds => digitsValue 16 0 ds
    | ds => digitsValue 10 0 ds
  match r with
  | some n => .ok n
  | none => .error .badNumber

/-- The numbers of a list of operand texts. -/
def parseNumbers (ts : List (List Char)) : Except AsmError (List Nat) :=
  match ts with
  | [] => .ok []
  | t :: rest =>
    match parseNumber (trimBlanks t), parseNumbers rest with
    | .error e, _ => .error e
    | .ok _, .error e => .error e
    | .ok n, .ok ns => .ok (n :: ns)

/-- A line of a mnemonic without operands. -/
def plainLine (l : AsmLine) (ns : List Nat) : Except AsmError AsmLine :=
  match ns with
  | [] => .ok l
  | _ :: _ => .error .operandCount

/-- A line of a mnemonic with a coordinate pair, column first (R92). -/
def pairLine (f : Nat → Nat → AsmLine) (ns : List Nat) : Except AsmError AsmLine :=
  match ns with
  | [x, y] => .ok (f x y)
  | _ => .error .operandCount

/-- A line of WRITE: column, row, data (R92). -/
def tripleLine (f : Nat → Nat → Nat → AsmLine) (ns : List Nat) : Except AsmError AsmLine :=
  match ns with
  | [x, y, d] => .ok (f x y d)
  | _ => .error .operandCount

/-- The mnemonics and pseudo-instructions (R92, R94). -/
def mnemonicTable : List (List Char × (List Nat → Except AsmError AsmLine)) :=
  [("STATUS".toList, plainLine .status), ("ADDR".toList, pairLine .addr), ("READ".toList, pairLine .read),
   ("WRITE".toList, tripleLine .write), ("FLIPH".toList, plainLine .fliph), ("MIRRV".toList, plainLine .mirrv),
   ("INVERT".toList, plainLine .invert), ("GRAY".toList, plainLine .gray), ("GTOGGLE".toList, plainLine .gtoggle),
   ("GAPPLY".toList, plainLine .gapply), ("GRESTORE".toList, plainLine .grestore),
   ("NEWFRAME".toList, plainLine .newframe), ("NOP".toList, plainLine .nop), ("ROT180".toList, plainLine .rot180)]

/-- The line of a mnemonic and its operands. -/
def lineOf (name : List Char) (ns : List Nat) : Except AsmError AsmLine :=
  match mnemonicTable.find? (fun row => row.1 == name) with
  | some row => row.2 ns
  | none => .error .unknownMnemonic

/-- The text of a line before its comment, which starts with `;` (R92). -/
def withoutComment (cs : List Char) : List Char := cs.takeWhile (fun c => c != ';')

/-- One line of text: nothing for an empty line or a line that is only a comment (R92). -/
def parseLine (cs : List Char) : Except AsmError (Option AsmLine) :=
  let body := trimBlanks (withoutComment cs)
  let name := body.takeWhile (fun c => !isBlank c)
  let operands := trimBlanks (body.dropWhile (fun c => !isBlank c))
  if body.isEmpty then .ok none
  else
    match (if operands.isEmpty then .ok [] else parseNumbers (splitCommas operands)) with
    | .error e => .error e
    | .ok ns =>
      match lineOf name ns with
      | .ok l => .ok (some l)
      | .error e => .error e

/-- The words of one line of text. -/
def assembleText (cs : List Char) : Except AsmError (List CmdWord) :=
  match parseLine cs with
  | .ok (some l) => assembleLine l
  | .ok none => .ok []
  | .error e => .error e

end Sys2Proof.Machine
end

