-- ==== Sys2Proof/Machine/Tables.lean ====
section
/-!
DEFINITION. The tables of the grayscale arithmetic, copied row by row from spec/41_pixel_transforms.md R135 and R136.
No command uses them; the statements hold the arithmetic against them.
-/

namespace Sys2Proof.Machine

/-- R135, red and blue: `c * 255 / 31` for `c` from 0 to 31. -/
def upscale5Table : List Nat :=
  [0, 8, 16, 24, 32, 41, 49, 57] ++
  [65, 74, 82, 90, 98, 106, 115, 123] ++
  [131, 139, 148, 156, 164, 172, 180, 189] ++
  [197, 205, 213, 222, 230, 238, 246, 255]

/-- R135, green: `g * 255 / 63` for `g` from 0 to 63. -/
def upscale6Table : List Nat :=
  [0, 4, 8, 12, 16, 20, 24, 28] ++
  [32, 36, 40, 44, 48, 52, 56, 60] ++
  [64, 68, 72, 76, 80, 85, 89, 93] ++
  [97, 101, 105, 109, 113, 117, 121, 125] ++
  [129, 133, 137, 141, 145, 149, 153, 157] ++
  [161, 165, 170, 174, 178, 182, 186, 190] ++
  [194, 198, 202, 206, 210, 214, 218, 222] ++
  [226, 230, 234, 238, 242, 246, 250, 255]

/-- R136: the output pixel of every luminance from 0 to 255. -/
def shadeTable : List Pixel :=
  [0x0000, 0x0000, 0x0000, 0x0000, 0x0000, 0x0020, 0x0020, 0x0020] ++
  [0x0020, 0x0841, 0x0841, 0x0841, 0x0841, 0x0861, 0x0861, 0x0861] ++
  [0x0861, 0x1082, 0x1082, 0x1082, 0x1082, 0x10A2, 0x10A2, 0x10A2] ++
  [0x10A2, 0x18C3, 0x18C3, 0x18C3, 0x18C3, 0x18E3, 0x18E3, 0x18E3] ++
  [0x18E3, 0x2104, 0x2104, 0x2104, 0x2104, 0x2124, 0x2124, 0x2124] ++
  [0x2124, 0x2144, 0x2945, 0x2945, 0x2945, 0x2965, 0x2965, 0x2965] ++
  [0x2965, 0x2985, 0x3186, 0x3186, 0x3186, 0x31A6, 0x31A6, 0x31A6] ++
  [0x31A6, 0x31C6, 0x39C7, 0x39C7, 0x39C7, 0x39E7, 0x39E7, 0x39E7] ++
  [0x39E7, 0x3A07, 0x4208, 0x4208, 0x4208, 0x4228, 0x4228, 0x4228] ++
  [0x4228, 0x4248, 0x4248, 0x4A49, 0x4A49, 0x4A69, 0x4A69, 0x4A69] ++
  [0x4A69, 0x4A89, 0x4A89, 0x528A, 0x528A, 0x52AA, 0x52AA, 0x52AA] ++
  [0x52AA, 0x52AA, 0x52CA, 0x5ACB, 0x5ACB, 0x5ACB, 0x5AEB, 0x5AEB] ++
  [0x5AEB, 0x5AEB, 0x5B0B, 0x630C, 0x630C, 0x630C, 0x632C, 0x632C] ++
  [0x632C, 0x632C, 0x634C, 0x6B4D, 0x6B4D, 0x6B4D, 0x6B6D, 0x6B6D] ++
  [0x6B6D, 0x6B6D, 0x6B8D, 0x6B8D, 0x738E, 0x738E, 0x73AE, 0x73AE] ++
  [0x73AE, 0x73AE, 0x73CE, 0x73CE, 0x7BCF, 0x7BCF, 0x7BEF, 0x7BEF] ++
  [0x7BEF, 0x7BEF, 0x7C0F, 0x7C0F, 0x8410, 0x8410, 0x8430, 0x8430] ++
  [0x8430, 0x8430, 0x8450, 0x8450, 0x8C51, 0x8C51, 0x8C71, 0x8C71] ++
  [0x8C71, 0x8C71, 0x8C91, 0x8C91, 0x8C91, 0x9492, 0x94B2, 0x94B2] ++
  [0x94B2, 0x94B2, 0x94D2, 0x94D2, 0x94D2, 0x9CD3, 0x9CF3, 0x9CF3] ++
  [0x9CF3, 0x9CF3, 0x9D13, 0x9D13, 0x9D13, 0xA514, 0xA534, 0xA534] ++
  [0xA534, 0xA534, 0xA554, 0xA554, 0xA554, 0xAD55, 0xAD55, 0xAD75] ++
  [0xAD75, 0xAD75, 0xAD75, 0xAD95, 0xAD95, 0xB596, 0xB596, 0xB5B6] ++
  [0xB5B6, 0xB5B6, 0xB5B6, 0xB5D6, 0xB5D6, 0xB5D6, 0xBDD7, 0xBDF7] ++
  [0xBDF7, 0xBDF7, 0xBDF7, 0xBE17, 0xBE17, 0xBE17, 0xC618, 0xC638] ++
  [0xC638, 0xC638, 0xC638, 0xC658, 0xC658, 0xC658, 0xCE59, 0xCE79] ++
  [0xCE79, 0xCE79, 0xCE79, 0xCE99, 0xCE99, 0xCE99, 0xD69A, 0xD6BA] ++
  [0xD6BA, 0xD6BA, 0xD6BA, 0xD6DA, 0xD6DA, 0xD6DA, 0xD6DA, 0xDEFB] ++
  [0xDEFB, 0xDEFB, 0xDEFB, 0xDF1B, 0xDF1B, 0xDF1B, 0xDF1B, 0xE73C] ++
  [0xE73C, 0xE73C, 0xE73C, 0xE75C, 0xE75C, 0xE75C, 0xE75C, 0xEF7D] ++
  [0xEF7D, 0xEF7D, 0xEF7D, 0xEF9D, 0xEF9D, 0xEF9D, 0xEF9D, 0xF7BE] ++
  [0xF7BE, 0xF7BE, 0xF7BE, 0xF7DE, 0xF7DE, 0xF7DE, 0xF7DE, 0xFFFF]

end Sys2Proof.Machine
end

