-- ==== Sys2Proof/Safety.lean ====
section
/-!
DEFINITION. What claims are stated in: legal responses, the machine's invariant, and sequences of commands.
-/

namespace Sys2Proof.Machine

/-- A response the block can offer in a state with toggle state `t`: reserved bits 0, `STATE` is TSTATE, a code of
the table, and `RESULT = 0` on an error (spec/30_encoding.md R90, R91, 60_exceptions.md R191). -/
def legalResponse (t : ToggleState) (r : RspWord) : Prop :=
  rspReserved r = 0 ∧ rspState r = t.bit ∧
    (rspErr r = 0 ∨ rspErr r = 1 ∨ rspErr r = 3 ∨ rspErr r = 4) ∧ (rspErr r ≠ 0 → rspResult r = 0)

/-- The invariant of the system: what the spec's rules keep true in every run. -/
structure SystemInv (s : State) : Prop where
  /-- R8: the block is built from a well-formed configuration. -/
  cfg_wf : s.cfg.wf
  /-- The frame memory is in canonical form and lists only elements that exist (R25). -/
  fb_wf : s.fb.wf
  fb_below : s.fb.below s.cfg.depth
  /-- The backup memory likewise (R27). -/
  bb_wf : s.bb.wf
  bb_below : s.bb.below s.cfg.depth
  /-- R30: a pending response belongs to a command in the block. -/
  rsp_busy : s.rsp.isSome = true → s.busy = true
  /-- R33: capture enabled while BUSY leaves the mark. -/
  overlap_marked : s.captureEn = true → s.busy = true → s.captureOverlap = true
  /-- R90, R191: every response offered is legal. -/
  rsp_legal : ∀ r, s.rsp = some r → legalResponse s.tstate r
  /-- R22: the index stays within the host's list. -/
  index_le : s.k ≤ s.prog.length

/-- Run commands one after the other, each on the state the one before it left (20_memory.md R61); the first stop
ends the run. -/
def execAll (is : List Instr) (s : State) : Host.Outcome State Fault Refusal :=
  match is with
  | [] => .next s
  | i :: rest =>
    match exec i s with
    | .next t => execAll rest t
    | .fault e => .fault e
    | .refused e => .refused e

/-- The commands that name a toggle transition or end the frame; the other commands leave TSTATE as it is (R160). -/
def movesToggle (i : Instr) : Bool :=
  match i with
  | .status => false
  | .addr _ _ => false
  | .read _ _ => false
  | .write _ _ _ => false
  | .fliph => false
  | .mirrv => false
  | .invert => false
  | .gray => false
  | .gtoggle => true
  | .gapply => true
  | .grestore => true
  | .newframe => true

/-- TSTATE after a command, by the transition table (R160). -/
def nextToggle (i : Instr) (t : ToggleState) : ToggleState :=
  match i with
  | .status => t
  | .addr _ _ => t
  | .read _ _ => t
  | .write _ _ _ => t
  | .fliph => t
  | .mirrv => t
  | .invert => t
  | .gray => t
  | .gtoggle =>
    match t with
    | .color => .grayscale
    | .grayscale => .color
  | .gapply => .grayscale
  | .grestore => .color
  | .newframe => .color

/-- The bits of a word that the command reads: the opcode and the fields of the table of R85. -/
def readMask (i : Instr) : CmdWord :=
  match i with
  | .status => 0xF000000000000000
  | .addr _ _ => 0xF000FFFFFFFF0000
  | .read _ _ => 0xF000FFFFFFFF0000
  | .write _ _ _ => 0xF000FFFFFFFFFFFF
  | .fliph => 0xF000000000000000
  | .mirrv => 0xF000000000000000
  | .invert => 0xF000000000000000
  | .gray => 0xF000000000000000
  | .gtoggle => 0xF000000000000000
  | .gapply => 0xF000000000000000
  | .grestore => 0xF000000000000000
  | .newframe => 0xF000000000000000

/-- The bits of `RSV`, which are never ignored (R82, R85). -/
def reservedMask : CmdWord := 0x0FFF000000000000

/-- What a Color to Grayscale transition does, as seen from outside (R161): the response reports Grayscale, every
logical pixel is backed up and converted, the padding of both memories and everything else is as before. -/
def ToggleApplied (s t : State) : Prop :=
  t = { s with fb := t.fb, bb := t.bb, tstate := .grayscale, rsp := some (rspWord .grayscale 0 0) } ∧
  (∀ x y, x < s.cfg.W → y < s.cfg.H →
    Memory.get t.bb (s.cfg.off x y) = Memory.get s.fb (s.cfg.off x y) ∧
    Memory.get t.fb (s.cfg.off x y) = gray (Memory.get s.fb (s.cfg.off x y))) ∧
  (∀ o, s.cfg.isLogical o = false →
    Memory.get t.fb o = Memory.get s.fb o ∧ Memory.get t.bb o = Memory.get s.bb o)

/-- What a Grayscale to Color transition does, as seen from outside (R162): the response reports Color, every logical
pixel is the backup's, padding, backup and everything else are as before. -/
def ToggleRestored (s t : State) : Prop :=
  t = { s with fb := t.fb, tstate := .color, rsp := some (rspWord .color 0 0) } ∧
  (∀ x y, x < s.cfg.W → y < s.cfg.H →
    Memory.get t.fb (s.cfg.off x y) = Memory.get s.bb (s.cfg.off x y)) ∧
  (∀ o, s.cfg.isLogical o = false → Memory.get t.fb o = Memory.get s.fb o)

/-- What a whole-frame command leaves alone (R137): only the frame memory and the response change, and of the frame
only logical pixels. -/
def OnlyLogicalPixels (s t : State) : Prop :=
  t = { s with fb := t.fb, rsp := some (rspWord s.tstate 0 0) } ∧
  (∀ o, s.cfg.isLogical o = false → Memory.get t.fb o = Memory.get s.fb o)

/-- Capture keeps clear of the commands from here on: it is disabled and no overlap has happened (R33, R225). -/
abbrev State.captureClear (s : State) : Prop := s.captureEn = false ∧ s.captureOverlap = false

/-- The block is idle, out of reset, and nothing but the next command is to come: no move of the environment is
pending, the host offers its commands and takes its responses (R96, R232). -/
abbrev State.idleReady (s : State) : Prop :=
  s.moves = [] ∧ s.rst = false ∧ s.busy = false ∧ s.rsp = none ∧ s.cmdValid = true ∧ s.rspReady = true

/-- The next step is a clock edge, and `ms` are the moves left after it: the environment lets one pass, or has no move
left (R96). -/
abbrev State.atEdge (s : State) (ms : List Move) : Prop := s.moves = .go :: ms ∨ s.moves = [] ∧ ms = []

/-- The block's registers at their reset values (R34, R220). -/
abbrev State.atReset (s : State) : Prop := s.tstate = .color ∧ s.busy = false ∧ s.rsp = none

/-- A command has been accepted and completes at the next clock edge (R60). -/
abbrev State.executing (s : State) : Prop := s.rst = false ∧ s.busy = true ∧ s.rsp = none

/-- The block is idle and out of reset and the host offers the word `w`, which transfers at the next clock edge
(R22, R96). -/
abbrev State.offered (s : State) (w : CmdWord) : Prop :=
  s.rst = false ∧ s.busy = false ∧ s.rsp = none ∧ s.cmdValid = true ∧ s.prog[s.k]? = some w

end Sys2Proof.Machine
end

