-- ==== Sys2Proof/Certificates/Slice0/Obligations.lean ====
section
/-!
DEFINITION. The statements for the provers. Each docstring names the rules of spec/ it rests on.
-/

open Sys2Proof Sys2Proof.Machine

/-! ### Encoding (spec/30_encoding.md) -/

/-- R80, R86, R89, R93: every command with an encoding decodes back to itself, each operand at every value. -/
def Obligations.DecodeUndoesEncode : Prop :=
  ∀ i : Instr, i.wf = true → decode (encode i) = .ok i

/-- R85, R92: a decoded word has an encoding, and it is the word with the fields the command does not read cleared. -/
def Obligations.EncodeKeepsTheFieldsRead : Prop :=
  ∀ (w : CmdWord) (i : Instr), decode w = .ok i → i.wf = true ∧ encode i = w &&& readMask i

/-- R85: two words are the same command exactly when they agree in the fields the command reads and in RSV: the
fields it does not use do not change what the word decodes to, and RSV is not such a field. -/
def Obligations.UnusedFieldsAreIgnored : Prop :=
  ∀ (w v : CmdWord) (i : Instr), decode w = .ok i →
    (decode v = .ok i ↔ v &&& (readMask i ||| reservedMask) = w &&& (readMask i ||| reservedMask))

/-- R89: the decoding table, and IllegalCommand for every word it does not list. -/
def Obligations.DecodingFollowsTheTable : Prop :=
  ∀ w : CmdWord,
    (fieldRsv w ≠ 0 → ∃ e, decode w = .error e) ∧
    (fieldRsv w = 0 →
      (fieldOp w = 0x0 → decode w = .ok .status) ∧
      (fieldOp w = 0x1 → decode w = .ok (.addr (fieldX w).toNat (fieldY w).toNat)) ∧
      (fieldOp w = 0x2 → decode w = .ok (.read (fieldX w).toNat (fieldY w).toNat)) ∧
      (fieldOp w = 0x3 → decode w = .ok (.write (fieldX w).toNat (fieldY w).toNat (fieldData w))) ∧
      (fieldOp w = 0x4 → decode w = .ok .fliph) ∧
      (fieldOp w = 0x5 → decode w = .ok .mirrv) ∧
      (fieldOp w = 0x6 → decode w = .ok .invert) ∧
      (fieldOp w = 0x7 → decode w = .ok .gray) ∧
      (fieldOp w = 0x8 → decode w = .ok .gtoggle) ∧
      (fieldOp w = 0x9 → decode w = .ok .gapply) ∧
      (fieldOp w = 0xA → decode w = .ok .grestore) ∧
      (fieldOp w = 0xB → decode w = .ok .newframe) ∧
      (0xC ≤ (fieldOp w).toNat → ∃ e, decode w = .error e)) ∧
    (∀ e s, decode w = .error e → s.cmd = w → runCommand s = raise .illegalCommand s)

/-- R93: the encoder is the assembler's formula, with the rule's example. -/
def Obligations.EncodeIsTheAssemblersFormula : Prop :=
  ∀ (x y : Nat) (d : Pixel), x < 65536 → y < 65536 →
    (encode .status).toNat = enc 0x0 0 0 0 ∧
    (encode (.addr x y)).toNat = enc 0x1 x y 0 ∧
    (encode (.read x y)).toNat = enc 0x2 x y 0 ∧
    (encode (.write x y d)).toNat = enc 0x3 x y d.toNat ∧
    (encode .fliph).toNat = enc 0x4 0 0 0 ∧
    (encode .mirrv).toNat = enc 0x5 0 0 0 ∧
    (encode .invert).toNat = enc 0x6 0 0 0 ∧
    (encode .gray).toNat = enc 0x7 0 0 0 ∧
    (encode .gtoggle).toNat = enc 0x8 0 0 0 ∧
    (encode .gapply).toNat = enc 0x9 0 0 0 ∧
    (encode .grestore).toNat = enc 0xA 0 0 0 ∧
    (encode .newframe).toNat = enc 0xB 0 0 0 ∧
    enc 1 319 239 0 = 0x100000EF013F0000 ∧ encode (.addr 319 239) = 0x100000EF013F0000

/-- R113 to R170, examples, and table L2.6: words written out in the spec decode to the commands they stand for, and
illegal ones are refused. R89 has one Illegal; the two names of the refusals are the model's (log entry 22). -/
def Obligations.SpecWordsDecode : Prop :=
  decode 0x100000EF013F0000 = .ok (.addr 319 239) ∧
  decode 0x2000000100000000 = .ok (.read 0 1) ∧
  decode 0x30000002000507E0 = .ok (.write 5 2 0x07E0) ∧
  decode 0x4000FFFFFFFFFFFF = .ok .fliph ∧
  decode 0x9000000000000000 = .ok .gapply ∧
  decode 0xB000000000000000 = .ok .newframe ∧
  decode 0x9001000000000000 = .error .reservedBits ∧
  decode 0xC000000000000000 = .error .reservedOpcode

/-- R94: the pseudo-instructions' expansions, and why: STATUS changes no state, FLIPH then MIRRV is the half turn. -/
def Obligations.PseudoInstructionsExpand : Prop :=
  assembleLine .nop = assembleLine .status ∧
  assembleLine .rot180 = .ok [encode .fliph, encode .mirrv] ∧
  assembleLine .status = .ok [encode .status] ∧
  ∀ s : State, s.cfg.wf →
    execAll [.status] s = .next { s with rsp := some (rspWord s.tstate 0 0) } ∧
    ∃ t, execAll [.fliph, .mirrv] s = .next t ∧
      ∀ x y, x < s.cfg.W → y < s.cfg.H →
        Memory.get t.fb (s.cfg.off x y) = Memory.get s.fb (s.cfg.off (s.cfg.W - 1 - x) (s.cfg.H - 1 - y))

/-! ### Addressing (spec/40_addressing_port.md) -/

/-- R110: the offset is exact, at most that of the last logical pixel, and never wraps. -/
def Obligations.OffsetsFitAndNeverWrap : Prop :=
  ∀ (c : Config) (x y : Nat), c.wf → x < c.W → y < c.H →
    (pixelAddresser c x y).offset.toNat = y * c.S + x ∧ c.off x y = y * c.S + x ∧
    y * c.S + x ≤ (c.H - 1) * c.S + (c.W - 1) ∧ (c.H - 1) * c.S + (c.W - 1) < c.H * c.S ∧ c.H * c.S ≤ 2 ^ 32

/-- R112: injective, row-major, never padding, and a shift and an OR when the stride is a power of two. -/
def Obligations.OffsetIsInjectiveAndRowMajor : Prop :=
  ∀ (c : Config) (x y : Nat), c.wf → x < c.W → y < c.H →
    (∀ u v, u < c.W → v < c.H → c.off u v = c.off x y → u = x ∧ v = y) ∧
    (x + 1 < c.W → c.off (x + 1) y = c.off x y + 1) ∧
    c.off x (y + 1) = c.off x y + c.S ∧
    c.isLogical (c.off x y) = true ∧
    (∀ n, c.S = 2 ^ n → c.off x y = (y <<< n) ||| x)

/-- R9, R58: an offset of the frame is that of a logical pixel or padding, `y*S + x` with `W <= x < S`, never both. -/
def Obligations.OffsetsAreLogicalOrPadding : Prop :=
  ∀ (c : Config) (o : Nat), c.wf → o < c.depth →
    (c.isLogical o = true ↔ ∃ x y, x < c.W ∧ y < c.H ∧ o = y * c.S + x) ∧
    (c.isLogical o = false ↔ ∃ x y, c.W ≤ x ∧ x < c.S ∧ y < c.H ∧ o = y * c.S + x)

/-! ### ADDR, READ, WRITE (spec/40_addressing_port.md R113 to R115) -/

/-- R113: ADDR of a logical pixel answers `y*S + x`; only the response changes. -/
def Obligations.AddrAnswersTheOffset : Prop :=
  ∀ (s : State) (x y : Nat), s.cfg.wf → x < s.cfg.W → y < s.cfg.H →
    ∃ r : BitVec 32, r.toNat = y * s.cfg.S + x ∧
      exec (.addr x y) s = .next { s with rsp := some (rspWord s.tstate 0 r) }

/-- R114: READ of a logical pixel answers the element, zero-extended; only the response changes. -/
def Obligations.ReadAnswersThePixel : Prop :=
  ∀ (s : State) (x y : Nat), s.cfg.wf → x < s.cfg.W → y < s.cfg.H →
    exec (.read x y) s =
      .next { s with rsp := some (rspWord s.tstate 0 ((Memory.get s.fb (s.cfg.off x y)).zeroExtend 32)) }

/-- R115: WRITE of a logical pixel stores the data there; every other element and every other field is as before. -/
def Obligations.WriteStoresThePixel : Prop :=
  ∀ (s : State) (x y : Nat) (d : Pixel), s.cfg.wf → x < s.cfg.W → y < s.cfg.H →
    ∃ t, exec (.write x y d) s = .next t ∧
      t = { s with fb := t.fb, rsp := some (rspWord s.tstate 0 0) } ∧
      Memory.get t.fb (s.cfg.off x y) = d ∧
      ∀ o, o ≠ s.cfg.off x y → Memory.get t.fb o = Memory.get s.fb o

/-- R192: a pair outside `Logical` raises InvalidCoordinate and changes nothing, for ADDR, READ and WRITE. -/
def Obligations.OutOfBoundsRaisesInvalidCoordinate : Prop :=
  ∀ (s : State) (x y : Nat) (d : Pixel), (s.cfg.W ≤ x ∨ s.cfg.H ≤ y) →
    exec (.addr x y) s = .next { s with rsp := some (rspWord s.tstate 1 0) } ∧
    exec (.read x y) s = .next { s with rsp := some (rspWord s.tstate 1 0) } ∧
    exec (.write x y d) s = .next { s with rsp := some (rspWord s.tstate 1 0) }

/-- R61, R115: a READ after a WRITE answers the data written to that pixel, and what was there before for any other
pixel. -/
def Obligations.ReadAfterWriteSeesTheWrite : Prop :=
  ∀ (s : State) (x y u v : Nat) (d : Pixel), s.cfg.wf → x < s.cfg.W → y < s.cfg.H → u < s.cfg.W → v < s.cfg.H →
    ∃ t, exec (.write x y d) s = .next t ∧
      exec (.read u v) t =
        .next { t with rsp := some (rspWord s.tstate 0
          ((if u = x ∧ v = y then d else Memory.get s.fb (s.cfg.off u v)).zeroExtend 32)) }

/-! ### Whole-frame commands (spec/41_pixel_transforms.md section 2) -/

/-- R140: FLIPH reflects every row and leaves everything else alone. -/
def Obligations.FliphReflectsEveryRow : Prop :=
  ∀ s : State, s.cfg.wf →
    ∃ t, exec .fliph s = .next t ∧ OnlyLogicalPixels s t ∧
      ∀ x y, x < s.cfg.W → y < s.cfg.H →
        Memory.get t.fb (s.cfg.off x y) = Memory.get s.fb (s.cfg.off (s.cfg.W - 1 - x) y)

/-- R141: MIRRV reflects every column and leaves everything else alone. -/
def Obligations.MirrvReflectsEveryColumn : Prop :=
  ∀ s : State, s.cfg.wf →
    ∃ t, exec .mirrv s = .next t ∧ OnlyLogicalPixels s t ∧
      ∀ x y, x < s.cfg.W → y < s.cfg.H →
        Memory.get t.fb (s.cfg.off x y) = Memory.get s.fb (s.cfg.off x (s.cfg.H - 1 - y))

/-- R142, R131: INVERT complements every logical pixel and leaves everything else alone. -/
def Obligations.InvertComplementsEveryPixel : Prop :=
  ∀ s : State, s.cfg.wf →
    ∃ t, exec .invert s = .next t ∧ OnlyLogicalPixels s t ∧
      ∀ x y, x < s.cfg.W → y < s.cfg.H →
        Memory.get t.fb (s.cfg.off x y) = Memory.get s.fb (s.cfg.off x y) ^^^ 0xFFFF

/-- R143, R132: GRAY converts every logical pixel and leaves everything else alone, TSTATE and BB among it. -/
def Obligations.GrayConvertsEveryPixel : Prop :=
  ∀ s : State, s.cfg.wf →
    ∃ t, exec .gray s = .next t ∧ OnlyLogicalPixels s t ∧
      ∀ x y, x < s.cfg.W → y < s.cfg.H →
        Memory.get t.fb (s.cfg.off x y) = gray (Memory.get s.fb (s.cfg.off x y))

/-- R144: FLIPH, MIRRV and INVERT each undo themselves, for every width and height; FLIPH and MIRRV in either order
give the same state, the rotation by half a turn; INVERT and GRAY commute with both reflections, but not with each
other. -/
def Obligations.FrameCommandLaws : Prop :=
  (∀ s : State, s.cfg.wf → s.fb.wf →
    (execAll [.fliph, .fliph] s = .next { s with rsp := some (rspWord s.tstate 0 0) } ∧
     execAll [.mirrv, .mirrv] s = .next { s with rsp := some (rspWord s.tstate 0 0) } ∧
     execAll [.invert, .invert] s = .next { s with rsp := some (rspWord s.tstate 0 0) }) ∧
    (execAll [.fliph, .mirrv] s = execAll [.mirrv, .fliph] s ∧
     ∃ t, execAll [.fliph, .mirrv] s = .next t ∧ OnlyLogicalPixels s t ∧
       ∀ x y, x < s.cfg.W → y < s.cfg.H →
         Memory.get t.fb (s.cfg.off x y) = Memory.get s.fb (s.cfg.off (s.cfg.W - 1 - x) (s.cfg.H - 1 - y))) ∧
    (execAll [.invert, .fliph] s = execAll [.fliph, .invert] s ∧
     execAll [.invert, .mirrv] s = execAll [.mirrv, .invert] s ∧
     execAll [.gray, .fliph] s = execAll [.fliph, .gray] s ∧
     execAll [.gray, .mirrv] s = execAll [.mirrv, .gray] s)) ∧
  gray (inv 0xF800) = gray 0x07FF ∧ gray 0x07FF = 0xAD75 ∧
  inv (gray 0xF800) = inv 0x4A49 ∧ inv 0x4A49 = 0xB5B6

/-- R138, R140, R141: the document's swap loops reach the closed forms, at every element. -/
def Obligations.SwapLoopsReachTheClosedForms : Prop :=
  ∀ (c : Config) (m : Memory) (o : Nat), c.wf →
    Memory.get (Memory.swapAll m (flipSwaps c)) o = Memory.get (flipped c m) o ∧
    Memory.get (Memory.swapAll m (mirrorSwaps c)) o = Memory.get (mirrored c m) o

/-- R139: how many swaps the loops make and how many pixels INVERT and GRAY rewrite. -/
def Obligations.OperationCounts : Prop :=
  ∀ c : Config, c.wf →
    (flipSwaps c).length = c.H * (c.W / 2) ∧ (mirrorSwaps c).length = c.W * (c.H / 2) ∧
    ((List.range c.depth).filter (fun o => c.isLogical o)).length = c.W * c.H

/-! ### Pixels (spec/00_scope.md R15, 41_pixel_transforms.md section 1) -/

/-- R15: the fields' ranges, `pack` as a number and its truncation, and a pixel is the pack of its fields. -/
def Obligations.PixelFieldsPackAndUnpack : Prop :=
  (∀ p : Pixel, red p ≤ 31 ∧ green p ≤ 63 ∧ blue p ≤ 31 ∧ pack (red p) (green p) (blue p) = p) ∧
  (∀ r g b, r ≤ 31 → g ≤ 63 → b ≤ 31 →
    (pack r g b).toNat = r * 2048 + g * 32 + b ∧
    red (pack r g b) = r ∧ green (pack r g b) = g ∧ blue (pack r g b) = b) ∧
  (∀ r g b, pack r g b = pack (r % 32) (g % 64) (b % 32))

/-- R131: inversion channel by channel is the complement of 16 bits, and undoes itself. -/
def Obligations.InversionIsTheComplement : Prop :=
  ∀ p : Pixel, inv p = pack (31 - red p) (63 - green p) (31 - blue p) ∧ inv p = p ^^^ 0xFFFF ∧ inv (inv p) = p

/-- R132, R135, R136: `gray` is the stated arithmetic on the number the pixel is, each step truncating, and its
upscale and downscale steps are the stated tables; 253 is the largest luminance below 255 that occurs. -/
def Obligations.GrayIsTheStatedArithmetic : Prop :=
  (∀ p : Pixel,
    luma p = ((p.toNat / 2048 * 255 / 31) * 299 + (p.toNat / 32 % 64 * 255 / 63) * 587 +
      (p.toNat % 32 * 255 / 31) * 114) / 1000 ∧
    (gray p).toNat = luma p * 31 / 255 * 2048 + luma p * 63 / 255 * 32 + luma p * 31 / 255) ∧
  (List.range 32).map up5 = upscale5Table ∧ (List.range 64).map up6 = upscale6Table ∧
  (List.range 256).map shade = shadeTable ∧
  (∀ p : Pixel, luma p ≠ 254) ∧ (∃ p : Pixel, luma p = 253)

/-- R133: the largest values of the luminance arithmetic and that every output field fits its channel. -/
def Obligations.LuminanceFitsItsWidths : Prop :=
  ∀ p : Pixel,
    red p * 255 ≤ 7905 ∧ green p * 255 ≤ 16065 ∧ blue p * 255 ≤ 7905 ∧ 7905 < 2 ^ 13 ∧ 16065 < 2 ^ 14 ∧
    up5 (red p) * 299 + up6 (green p) * 587 + up5 (blue p) * 114 ≤ 255000 ∧ 255000 < 2 ^ 18 ∧
    luma p ≤ 255 ∧ luma p * 63 ≤ 16065 ∧ luma p * 31 / 255 ≤ 31 ∧ luma p * 63 / 255 ≤ 63 ∧
    (p = 0xFFFF → red p * 255 = 7905 ∧ green p * 255 = 16065 ∧ luma p * 63 = 16065)

/-- R134 (1) and (3): equal red and blue fields, an output of the luminance alone, and a luminance that no raised
channel lowers. -/
def Obligations.LuminanceIsMonotone : Prop :=
  (∀ p q : Pixel, red (gray p) = blue (gray p) ∧ (luma p = luma q → gray p = gray q)) ∧
  (∀ r g b r' g' b', r ≤ r' → g ≤ g' → b ≤ b' → r' ≤ 31 → g' ≤ 63 → b' ≤ 31 → lumaOf r g b ≤ lumaOf r' g' b')

/-- R134 (4) and (5): only `0x0000` and `0xFFFF` are fixed points of `gray`, so nothing else is gained by a second
application. -/
def Obligations.GrayHasTwoFixedPoints : Prop :=
  ∀ p : Pixel, (gray p = p ↔ p = 0x0000 ∨ p = 0xFFFF) ∧
    (gray (gray p) = gray p ↔ gray p = 0x0000 ∨ gray p = 0xFFFF)

/-- R134 (5): repeated application turns every pixel but white black within 64 applications. -/
def Obligations.GrayDarkensToBlack : Prop :=
  ∀ p : Pixel, p ≠ 0xFFFF → gray^[64] p = 0x0000

/-- R134 (2): `gray` has exactly 86 distinct outputs. -/
def Obligations.GrayHasEightySixOutputs : Prop :=
  ∃ qs : List Pixel, qs.length = 86 ∧ qs.Nodup ∧ ∀ q, q ∈ qs ↔ ∃ p, gray p = q

/-! ### The toggle (spec/42_grayscale_toggle.md) -/

/-- R163, R161, R162: GTOGGLE makes the transition that TSTATE selects. -/
def Obligations.GtoggleFollowsTstate : Prop :=
  ∀ s : State, s.cfg.wf →
    (s.tstate = .color → ∃ t, exec .gtoggle s = .next t ∧ ToggleApplied s t) ∧
    (s.tstate = .grayscale → ∃ t, exec .gtoggle s = .next t ∧ ToggleRestored s t)

/-- R164, R165, R161, R162: GAPPLY in Color backs up and converts the frame, GRESTORE in Grayscale copies the backup
back. -/
def Obligations.GapplyAndGrestoreMakeTheirTransitions : Prop :=
  ∀ s : State, s.cfg.wf →
    (s.tstate = .color → ∃ t, exec .gapply s = .next t ∧ ToggleApplied s t) ∧
    (s.tstate = .grayscale → ∃ t, exec .grestore s = .next t ∧ ToggleRestored s t)

/-- R194: GAPPLY in Grayscale and GRESTORE in Color raise StateMisuse and change nothing; GTOGGLE never does. -/
def Obligations.WrongDirectionIsStateMisuse : Prop :=
  ∀ s : State,
    (s.tstate = .grayscale → exec .gapply s = .next { s with rsp := some (rspWord .grayscale 3 0) }) ∧
    (s.tstate = .color → exec .grestore s = .next { s with rsp := some (rspWord .color 3 0) }) ∧
    (∀ t r, exec .gtoggle s = .next t → t.rsp = some r → rspErr r = 0)

/-- R167, R170: NEWFRAME returns TSTATE to Color and touches nothing else; STATUS only reports. -/
def Obligations.NewframeAndStatus : Prop :=
  ∀ s : State,
    exec .newframe s = .next { s with tstate := .color, rsp := some (rspWord .color 0 0) } ∧
    exec .status s = .next { s with rsp := some (rspWord s.tstate 0 0) }

/-- R160, the column of next states: TSTATE after any command is the table's. -/
def Obligations.TransitionTable : Prop :=
  ∀ (i : Instr) (s t : State), exec i s = .next t → t.tstate = nextToggle i s.tstate

/-- R160, R23, R220: in a step of the whole system TSTATE changes only when GTOGGLE, GAPPLY, GRESTORE or NEWFRAME
completes, that is, its response is offered, or at a clock edge with reset high. That reset changes it at such an edge
and at no other time is the model's reading (log entry 19). -/
def Obligations.OnlyToggleCommandsAndResetChangeTstate : Prop :=
  ∀ s t : State, step s = .next t → t.tstate ≠ s.tstate →
    (∃ i, decode s.cmd = .ok i ∧ movesToggle i = true ∧ s.busy = true ∧ s.rsp = none ∧ t.rsp.isSome = true) ∨
    (s.rst = true ∧ (∃ ms, s.atEdge ms) ∧ t.tstate = .color)

/-- R27, R26: only a Color to Grayscale transition writes BB, and no command touches padding in either memory. -/
def Obligations.BackupWrittenOnlyOnApply : Prop :=
  ∀ (i : Instr) (s t : State), s.cfg.wf → exec i s = .next t →
    (t.bb ≠ s.bb → s.tstate = .color ∧ (i = .gtoggle ∨ i = .gapply)) ∧
    (∀ o, s.cfg.isLogical o = false →
      Memory.get t.fb o = Memory.get s.fb o ∧ Memory.get t.bb o = Memory.get s.bb o)

/-- R166: in Color no command reads BB: with any other backup the command ends alike, but for BB itself. -/
def Obligations.StaleBackupIsNeverObserved : Prop :=
  ∀ (i : Instr) (s t : State) (b : Memory), s.tstate = .color → exec i s = .next t →
    ∃ u, exec i { s with bb := b } = .next u ∧ { u with bb := t.bb } = t

/-- R28: while the machine stays in Grayscale no step changes the backup. -/
def Obligations.BackupHoldsWhileGrayscale : Prop :=
  ∀ s t : State, step s = .next t → s.tstate = .grayscale → t.tstate = .grayscale → t.bb = s.bb

/-- R168: whatever other commands do between a Color to Grayscale transition and the next Grayscale to Color
transition, the logical pixels come back exactly. -/
def Obligations.GrayscaleRoundTrip : Prop :=
  ∀ (s : State) (a b : Instr) (mid : List Instr), s.cfg.wf → s.tstate = .color →
    (a = .gapply ∨ a = .gtoggle) → (b = .grestore ∨ b = .gtoggle) → (∀ i ∈ mid, movesToggle i = false) →
    ∃ t, execAll (a :: (mid ++ [b])) s = .next t ∧ t.tstate = .color ∧
      ∀ x y, x < s.cfg.W → y < s.cfg.H →
        Memory.get t.fb (s.cfg.off x y) = Memory.get s.fb (s.cfg.off x y)

/-! ### Responses and errors (spec/30_encoding.md section 3, 60_exceptions.md section 1) -/

/-- R90, R202: every word, legal or not, ends with one response: reserved bits 0, `STATE` is TSTATE after the command,
a code of the table, `RESULT = 0` when the code is not 0. The block never faults, hangs or refuses a word. -/
def Obligations.EveryWordGetsALegalResponse : Prop :=
  ∀ s : State, s.cfg.wf → ∃ t r, runCommand s = .next t ∧ t.rsp = some r ∧ legalResponse t.tstate r

/-- R91: `RESULT` per command on success, 0 on any error; `STATE` is TSTATE after the command, unchanged on an
error. -/
def Obligations.ResultPerCommand : Prop :=
  ∀ (s t : State) (r : RspWord), s.cfg.wf → runCommand s = .next t → t.rsp = some r →
    (rspErr r = 0 → ∃ i, decode s.cmd = .ok i ∧ (rspResult r).toNat =
      match i with
      | .addr x y => y * s.cfg.S + x
      | .read x y => (Memory.get s.fb (s.cfg.off x y)).toNat
      | _ => 0) ∧
    (rspErr r ≠ 0 → rspResult r = 0 ∧ t.tstate = s.tstate) ∧ rspState r = t.tstate.bit

/-- R196: a command that raises changes no state but its response, which has the error's code, `RESULT = 0` and the
unchanged TSTATE. -/
def Obligations.ErrorsChangeNothing : Prop :=
  ∀ (s t : State) (r : RspWord), runCommand s = .next t → t.rsp = some r → rspErr r ≠ 0 →
    t = { s with rsp := some r } ∧ rspResult r = 0 ∧ rspState r = s.tstate.bit ∧
    rspErr r = match decode s.cmd with
      | .error _ => 4
      | .ok .gapply => 3
      | .ok .grestore => 3
      | .ok _ => 1

/-- R195, R198: a word with reserved bits set or a reserved opcode raises IllegalCommand, whatever else is wrong with
it. -/
def Obligations.IllegalWordsRaiseFirst : Prop :=
  ∀ s : State, (fieldRsv s.cmd ≠ 0 ∨ 0xC ≤ (fieldOp s.cmd).toNat) →
    runCommand s = .next { s with rsp := some (rspWord s.tstate 4 0) }

/-! ### The system's steps (spec/10_state.md, 20_memory.md section 5, 70_reset_and_hazards.md) -/

/-- R60, R89: at a clock edge, when the accepted word decodes to a command and capture keeps clear, the step is that
command. Where capture overlaps it, the step is the command on a frame of free values, and the frame is free again
after it (the model's reading of R62, log entry 10). -/
def Obligations.StepRunsTheDecodedCommand : Prop :=
  ∀ (s : State) (i : Instr) (ms : List Move), s.cfg.wf → s.executing → s.atEdge ms → decode s.cmd = .ok i →
    (s.captureClear → step s = exec i { s with moves := ms }) ∧
    (¬ s.captureClear → step s = onNext overlap (exec i (overlap { s with moves := ms })))

/-- R22, R60, R96, R33: at a clock edge an idle block accepts the word the host offers and sets BUSY, and nothing else
changes; capture enabled at that moment also sets the mark and leaves the frame free (log entry 10). -/
def Obligations.AcceptTakesTheNextWord : Prop :=
  ∀ (s : State) (w : CmdWord) (ms : List Move), s.cfg.wf → s.offered w → s.atEdge ms →
    (s.captureEn = false → step s = .next { s with busy := true, cmd := w, k := s.k + 1, moves := ms }) ∧
    (s.captureEn = true → ∃ t, step s = .next t ∧
      t = { s with busy := true, cmd := w, k := s.k + 1, captureOverlap := true, fb := t.fb, draws := t.draws,
                   moves := ms })

/-- R96, R60: in every step a pending response stays as it is, unless it goes at a clock edge, taken with `rsp_ready`
high or dropped by reset; taking it clears BUSY and changes nothing else, and an edge with `rsp_ready` low changes
nothing. That reset drops it at an edge with the line high, and that it stays pending until then, is the model's
reading (log entry 19). -/
def Obligations.ResponseIsHeldUntilTaken : Prop :=
  ∀ (s : State) (r : RspWord), s.cfg.wf → s.busy = true → s.rsp = some r →
    (∀ t, step s = .next t →
      (t.rsp = some r ∧ t.busy = true) ∨
      (t.rsp = none ∧ t.busy = false ∧ (∃ ms, s.atEdge ms) ∧ (s.rst = true ∨ s.rspReady = true))) ∧
    (∀ ms, s.rst = false → s.rspReady = true → s.atEdge ms →
      step s = .next { s with rsp := none, busy := false, moves := ms }) ∧
    (∀ ms, s.rst = false → s.rspReady = false → s.moves = .go :: ms → step s = .next { s with moves := ms })

/-- R202: with no move left the machine stops on a response that the host does not take, and on nothing else: the
block never faults, hangs or refuses a word. At a clock edge at which no command is offered an idle block changes
nothing. The name of the stop is the model's (log entry 15), and so is the form of idling with no move left, a step
that answers the same state (log entry 16). -/
def Obligations.StopsOnlyOnAnUntakenResponse : Prop :=
  ∀ s : State, s.cfg.wf →
    (s.moves = [] → ∀ r, s.rst = false → s.rsp = some r → s.rspReady = false →
      step s = .fault .responseNeverTaken) ∧
    (s.moves = [] → (∀ t, step s ≠ .next t) → s.rst = false ∧ s.rspReady = false ∧ ∃ r, s.rsp = some r) ∧
    (∀ ms, s.atEdge ms → s.rst = false → s.busy = false → s.rsp = none →
      s.cmdValid = false ∨ s.prog.length ≤ s.k → step s = .next { s with moves := ms })

/-- R60, R61, R224: from idle with capture clear, three steps carry the next word through: accepted, completed on the
state every earlier command left, its response taken; the block is idle again. -/
def Obligations.CommandCycle : Prop :=
  ∀ (s : State) (w : CmdWord), s.cfg.wf → s.idleReady → s.captureClear → s.prog[s.k]? = some w →
    ∃ a b c r, step s = .next a ∧ step a = .next b ∧ step b = .next c ∧
      a = { s with busy := true, cmd := w, k := s.k + 1 } ∧ runCommand a = .next b ∧ b.rsp = some r ∧
      c = { b with rsp := none, busy := false } ∧ c.idleReady ∧ c.captureClear ∧ c.k = s.k + 1 ∧ c.cfg = s.cfg

/-- R220, R221, R222: a clock edge with reset high while idle sets TSTATE to Color and changes no memory, no geometry
and no host state. That reset takes effect at the edge at which the line is high is the model's reading (log entry
19), as is the backup being kept (log entry 12); the latched word `cmd` going to 0 is its choice (log entry 7). -/
def Obligations.ResetWhileIdle : Prop :=
  ∀ (s : State) (ms : List Move), s.cfg.wf → s.busy = false → s.rst = true → s.atEdge ms →
    step s = .next { s with tstate := .color, cmd := 0, rsp := none, moves := ms }

/-- R221: a clock edge with reset high in the middle of a command leaves free values in the frame elements the command
could write and in every element of BB, and leaves every other frame element, the padding among them, as it was.
Which elements a command could write, and that a pending response counts as the middle of it, is the model's reading
(log entry 11), as is the edge (log entry 19); the numbers of the draws (log entry 13) and `cmd` (log entry 7) are its
choice. -/
def Obligations.ResetAbandonsTheCommand : Prop :=
  ∀ (s : State) (ms : List Move), s.cfg.wf → s.busy = true → s.rst = true → s.atEdge ms →
    ∃ t, step s = .next t ∧
      t = { s with tstate := .color, busy := false, cmd := 0, rsp := none, fb := t.fb, bb := t.bb, draws := t.draws,
                   moves := ms } ∧
      (∀ o, wordMayWrite s.cfg s.cmd o = false → Memory.get t.fb o = Memory.get s.fb o) ∧
      (∀ o, s.cfg.isLogical o = false → wordMayWrite s.cfg s.cmd o = false) ∧
      (∀ o, wordMayWrite s.cfg s.cmd o = true → Memory.get t.fb o = Config.freeElement s.draws o) ∧
      (∀ o, o < s.cfg.depth → Memory.get t.bb o = Config.freeElement (s.draws + 1) o)

/-- R220: while the reset line is high the block offers and takes nothing. A clock edge then leaves it at its reset
values, and from there every step taken with the line high keeps them, the step that releases the line among them,
accepts no command and leaves the memories to the camera. That the registers change at the edge is the model's reading
(log entry 19), as is the backup being kept at further edges (log entry 12); that with no move left the step then
answers the same state is its form of idling (log entry 16). -/
def Obligations.ResetHoldsTheBlock : Prop :=
  ∀ s : State, s.cfg.wf → s.rst = true →
    s.cmdReady = false ∧ s.rspValid = false ∧
    (∀ ms, s.atEdge ms → ∃ t, step s = .next t ∧ t.atReset ∧ t.rst = true ∧ t.k = s.k) ∧
    (∀ t, s.atReset → step s = .next t → t.atReset ∧ t.k = s.k ∧ t.bb = s.bb ∧
      (t.fb ≠ s.fb → ∃ o v ms, s.moves = .camera o v :: ms ∧ s.captureEn = true)) ∧
    (s.atReset → s.cmd = 0 → s.moves = [] → step s = .next s)

/-- R33: CAPTURE_OVERLAP is set whenever capture is enabled while BUSY, is set for no other reason, and is never
cleared. -/
def Obligations.OverlapMarkIsExactAndSticky : Prop :=
  ∀ s t : State, SystemInv s → step s = .next t →
    (t.captureEn = true → t.busy = true → t.captureOverlap = true) ∧
    (s.captureOverlap = false → t.captureOverlap = true → t.captureEn = true ∧ t.busy = true) ∧
    (s.captureOverlap = true → t.captureOverlap = true)

/-- R32: while capture is enabled the camera writes any element, padding too, and nothing else; while it is disabled
a camera move changes nothing (log entry 14). -/
def Obligations.CameraWritesOneElement : Prop :=
  ∀ (s : State) (o : Nat) (v : Pixel) (ms : List Move), s.cfg.wf → s.moves = .camera o v :: ms →
    (s.captureEn = true → o < s.cfg.depth →
      ∃ t, step s = .next t ∧ t = { s with fb := t.fb, moves := ms } ∧ Memory.get t.fb o = v ∧
        ∀ a, a ≠ o → Memory.get t.fb a = Memory.get s.fb a) ∧
    (s.captureEn = true → s.cfg.depth ≤ o → step s = .fault .noSuchElement) ∧
    (s.captureEn = false → step s = .next { s with moves := ms })

/-- R32, R33, R95, R232: each move of the host sets the one input it names and changes nothing else: `cmd_valid`,
`rsp_ready`, `rst` (raised or released) and `capture_en`. Enabling capture while BUSY also sets the mark and leaves
every frame element a free value (log entry 10), of the draw that the model numbers so (log entry 13). That moving the
reset line changes nothing until a clock edge is the model's reading (log entry 19). -/
def Obligations.HostMovesSetOneInput : Prop :=
  ∀ (s : State) (ms : List Move) (v : Bool), s.cfg.wf →
    (s.moves = .setValid v :: ms → step s = .next { s with cmdValid := v, moves := ms }) ∧
    (s.moves = .setReady v :: ms → step s = .next { s with rspReady := v, moves := ms }) ∧
    (s.moves = .setRst v :: ms → step s = .next { s with rst := v, moves := ms }) ∧
    (s.moves = .setCapture v :: ms → v = false ∨ s.busy = false →
      step s = .next { s with captureEn := v, moves := ms }) ∧
    (s.moves = .setCapture v :: ms → v = true → s.busy = true → ∃ t, step s = .next t ∧
      t = { s with captureEn := true, captureOverlap := true, fb := t.fb, draws := t.draws, moves := ms } ∧
      (∀ o, o < s.cfg.depth → Memory.get t.fb o = Config.freeElement s.draws o) ∧
      (∀ o, s.cfg.depth ≤ o → Memory.get t.fb o = Memory.get s.fb o))

/-- R7, R22, R96, R220: no step changes the geometry or the host's program, and the index advances by one exactly when
a command is accepted, which takes an idle block out of reset and a host that offers. -/
def Obligations.GeometryAndProgramAreFixed : Prop :=
  ∀ s t : State, step s = .next t → t.cfg = s.cfg ∧ t.prog = s.prog ∧
    (t.k = s.k ∨ t.k = s.k + 1 ∧ s.busy = false ∧ s.cmdValid = true ∧ s.rst = false ∧ t.busy = true ∧
      s.prog[s.k]? = some t.cmd) ∧
    (s.busy = false → t.busy = true → t.k = s.k + 1)

/-- R8, R193, R202: an ill-formed configuration is refused by the build. That every step from a state that holds one
refuses too is the model's reading (log entry 2). -/
def Obligations.IllFormedConfigurationIsRefused : Prop :=
  ∀ s : State, ¬ s.cfg.wf →
    step s = .refused .invalidDimension ∧
    ∀ fb bb c, State.build s.cfg fb bb c = .error .invalidDimension

/-- R34, R220: what reset leaves, for every launch parameter: Color, not busy, no response, no overlap. -/
def Obligations.ResetValues : Prop :=
  ∀ (cfg : Config) (fb bb : Memory) (c : Bool),
    (State.launch cfg fb bb c).tstate = .color ∧ (State.launch cfg fb bb c).busy = false ∧
    (State.launch cfg fb bb c).rsp = none ∧ (State.launch cfg fb bb c).captureOverlap = false ∧
    (State.launch cfg fb bb c).fb = fb ∧ (State.launch cfg fb bb c).captureEn = c ∧
    State.reset.tstate = .color ∧ State.reset.busy = false ∧ State.reset.rsp = none ∧
    State.reset.captureOverlap = false

/-- The invariant holds at reset, and at every launch from a well-formed configuration with canonical memories. -/
def Obligations.InvariantHoldsAtReset : Prop :=
  SystemInv State.reset ∧
  ∀ (cfg : Config) (fb bb : Memory) (c : Bool), cfg.wf → fb.wf → fb.below cfg.depth → bb.wf → bb.below cfg.depth →
    SystemInv (State.launch cfg fb bb c)

/-- R8, R25, R30, R33, R90, R191: every step of the system keeps the invariant. -/
def Obligations.EveryStepKeepsTheInvariant : Prop :=
  ∀ s t : State, SystemInv s → step s = .next t → SystemInv t
end

