-- ==== Sys2Proof/Laws/Bits.lean ====
section
/-!
SUPPORT. Words put together from fields, as numbers.
-/

namespace Sys2Proof

/-- Concatenation as a number: the high part scaled by the width of the low one (spec/00_scope.md R12). -/
theorem toNat_append_add {a b : Nat} (x : BitVec a) (y : BitVec b) :
    (x ++ y).toNat = x.toNat * 2 ^ b + y.toNat := by
  rw [BitVec.toNat_append, Nat.shiftLeft_eq, Nat.mul_comm, Nat.two_pow_add_eq_or_of_lt y.isLt]

end Sys2Proof
end

