-- ==== Sys2Proof/Laws/Memory.lean ====
section
/-!
SUPPORT. The laws of the memory operations: a read after a write, the canonical form, the range of the listed
elements, and equality of memories that read alike.
-/

namespace Sys2Proof.Machine

@[simp] theorem Memory.get_nil (o : Nat) : Memory.get [] o = Memory.blank := rfl

theorem Memory.get_cons (a : Nat) (v : Pixel) (m : Memory) (o : Nat) :
    Memory.get ((a, v) :: m) o = if a = o then v else Memory.get m o := rfl

/-- An element no entry is for reads as an unlisted one. -/
theorem Memory.get_of_not_listed {m : Memory} {o : Nat} (h : ∀ c ∈ m, c.1 ≠ o) :
    Memory.get m o = Memory.blank := by
  induction m with
  | nil => rfl
  | cons c m ih =>
    obtain ⟨a, v⟩ := c
    rw [Memory.get_cons, if_neg (h (a, v) (List.mem_cons_self ..))]
    exact ih fun d hd => h d (List.mem_cons_of_mem _ hd)

/-- Reading past a part of the list that has no entry for the element. -/
theorem Memory.get_append_of_not_listed {m n : Memory} {o : Nat} (h : ∀ c ∈ m, c.1 ≠ o) :
    Memory.get (m ++ n) o = Memory.get n o := by
  induction m with
  | nil => rfl
  | cons c m ih =>
    obtain ⟨a, v⟩ := c
    rw [List.cons_append, Memory.get_cons, if_neg (h (a, v) (List.mem_cons_self ..))]
    exact ih fun d hd => h d (List.mem_cons_of_mem _ hd)

/-- Reading before a part of the list that has no entry for the element. -/
theorem Memory.get_append_left {m n : Memory} {o : Nat} (h : ∀ c ∈ n, c.1 ≠ o) :
    Memory.get (m ++ n) o = Memory.get m o := by
  induction m with
  | nil => rw [List.nil_append, Memory.get_of_not_listed h]; rfl
  | cons c m ih =>
    obtain ⟨a, v⟩ := c
    simp only [List.cons_append, Memory.get_cons, ih]

/-- A filter on offsets that keeps the element keeps what it reads as. -/
theorem Memory.get_filter {m : Memory} {p : Nat → Bool} {o : Nat} (h : p o = true) :
    Memory.get (m.filter (fun c => p c.1)) o = Memory.get m o := by
  induction m with
  | nil => rfl
  | cons c m ih =>
    obtain ⟨a, v⟩ := c
    rw [List.filter_cons, Memory.get_cons]
    by_cases ha : a = o
    · subst ha; simp [h, Memory.get_cons]
    · by_cases hp : p a = true <;> simp [hp, Memory.get_cons, ha, ih]

theorem Memory.entry_listed {o : Nat} {v : Pixel} {c : Nat × Pixel} (h : c ∈ Memory.entry o v) :
    c = (o, v) ∧ v ≠ Memory.blank := by
  unfold Memory.entry at h
  split at h
  · cases h
  · exact ⟨List.mem_singleton.mp h, ‹_›⟩

theorem Memory.get_entry_append (o : Nat) (v : Pixel) {m : Memory} (h : ∀ c ∈ m, c.1 ≠ o) :
    Memory.get (Memory.entry o v ++ m) o = v := by
  unfold Memory.entry
  split
  · rw [List.nil_append, Memory.get_of_not_listed h]; exact (Eq.symm ‹_›)
  · simp [Memory.get_cons]

theorem Memory.get_entry_append_ne {o a : Nat} (v : Pixel) (m : Memory) (h : a ≠ o) :
    Memory.get (Memory.entry a v ++ m) o = Memory.get m o :=
  Memory.get_append_of_not_listed fun c hc => by
    rw [(Memory.entry_listed hc).1]; exact h

/-! ### `Memory.set` -/

/-- A read after a write to the same element gives the value written. -/
@[simp] theorem Memory.get_set_same (m : Memory) (o : Nat) (v : Pixel) :
    Memory.get (Memory.set m o v) o = v := by
  unfold Memory.set
  rw [Memory.get_append_of_not_listed, Memory.get_entry_append]
  · intro c hc; have := (List.mem_filter.mp hc).2; simp at this; omega
  · intro c hc; have := (List.mem_filter.mp hc).2; simp at this; omega

/-- A write leaves every other element alone. -/
theorem Memory.get_set_other (m : Memory) {o a : Nat} (v : Pixel) (h : o ≠ a) :
    Memory.get (Memory.set m a v) o = Memory.get m o := by
  unfold Memory.set
  rcases Nat.lt_or_gt_of_ne h with hlt | hgt
  · rw [Memory.get_append_left, Memory.get_filter (p := fun b => decide (b < a)) (by simpa using hlt)]
    intro c hc
    rcases List.mem_append.mp hc with he | hf
    · rw [(Memory.entry_listed he).1]; exact fun e => h e.symm
    · have := (List.mem_filter.mp hf).2; simp at this; omega
  · rw [Memory.get_append_of_not_listed, Memory.get_entry_append_ne _ _ (fun e => h e.symm),
      Memory.get_filter (p := fun b => decide (a < b)) (by simpa using hgt)]
    intro c hc; have := (List.mem_filter.mp hc).2; simp at this; omega

theorem Memory.get_set (m : Memory) (o a : Nat) (v : Pixel) :
    Memory.get (Memory.set m a v) o = if o = a then v else Memory.get m o := by
  split
  · subst_vars; exact Memory.get_set_same ..
  · exact Memory.get_set_other _ _ ‹_›

/-! ### `Memory.rewrite` -/

theorem Memory.get_range_entries (n : Nat) (f : Nat → Pixel) (o : Nat) :
    Memory.get ((List.range n).flatMap (fun a => Memory.entry a (f a))) o =
      if o < n then f o else Memory.blank := by
  induction n with
  | zero => simp
  | succ n ih =>
    rw [List.range_succ, List.flatMap_append]
    simp only [List.flatMap_cons, List.flatMap_nil, List.append_nil]
    by_cases h : o = n
    · subst h
      rw [Memory.get_append_of_not_listed, if_pos (Nat.lt_succ_self _)]
      · have := Memory.get_entry_append o (f o) (m := []) (by simp)
        simpa using this
      · intro c hc
        obtain ⟨a, ha, hca⟩ := List.mem_flatMap.mp hc
        rw [(Memory.entry_listed hca).1]
        have := List.mem_range.mp ha
        simp only; omega
    · rw [Memory.get_append_left, ih]
      · have : (o < n) ↔ (o < n + 1) := by omega
        simp [this]
      · intro c hc; rw [(Memory.entry_listed hc).1]; exact fun e => h e.symm

/-- What a rewritten memory reads as: the new value below the bound, the old one above it. -/
@[simp] theorem Memory.get_rewrite (m : Memory) (n : Nat) (f : Nat → Pixel) (o : Nat) :
    Memory.get (Memory.rewrite m n f) o = if o < n then f o else Memory.get m o := by
  unfold Memory.rewrite
  by_cases h : o < n
  · rw [Memory.get_append_left, Memory.get_range_entries]
    · simp [h]
    · intro c hc; have := (List.mem_filter.mp hc).2; simp at this; omega
  · rw [Memory.get_append_of_not_listed, Memory.get_filter (p := fun b => decide (n ≤ b)) (by simp; omega),
      if_neg h]
    intro c hc
    obtain ⟨a, ha, hca⟩ := List.mem_flatMap.mp hc
    rw [(Memory.entry_listed hca).1]
    have := List.mem_range.mp ha
    simp only; omega

/-! ### Canonical form and range -/

theorem Memory.wf_nil : Memory.wf [] := ⟨List.Pairwise.nil, fun _ h => absurd h List.not_mem_nil⟩

theorem Memory.wf_filter {m : Memory} (h : m.wf) (p : Nat × Pixel → Bool) : Memory.wf (m.filter p) :=
  ⟨h.1.filter p, fun c hc => h.2 c (List.mem_filter.mp hc).1⟩

/-- Two canonical parts, every offset of the first below every offset of the second, make a canonical memory. -/
theorem Memory.wf_append {m n : Memory} (hm : m.wf) (hn : n.wf) (h : ∀ a ∈ m, ∀ b ∈ n, a.1 < b.1) :
    Memory.wf (m ++ n) :=
  ⟨List.pairwise_append.mpr ⟨hm.1, hn.1, h⟩, fun c hc =>
    (List.mem_append.mp hc).elim (hm.2 c) (hn.2 c)⟩

theorem Memory.wf_entry (o : Nat) (v : Pixel) : Memory.wf (Memory.entry o v) := by
  unfold Memory.entry
  split
  · exact Memory.wf_nil
  · exact ⟨List.pairwise_singleton .., fun c hc => by rw [List.mem_singleton.mp hc]; assumption⟩

/-- A write keeps the canonical form. -/
theorem Memory.wf_set {m : Memory} (h : m.wf) (o : Nat) (v : Pixel) : Memory.wf (Memory.set m o v) := by
  unfold Memory.set
  refine Memory.wf_append (Memory.wf_filter h _)
    (Memory.wf_append (Memory.wf_entry o v) (Memory.wf_filter h _) ?_) ?_
  · intro a ha b hb
    rw [(Memory.entry_listed ha).1]
    simpa using (List.mem_filter.mp hb).2
  · intro a ha b hb
    have h1 : a.1 < o := by simpa using (List.mem_filter.mp ha).2
    rcases List.mem_append.mp hb with he | hf
    · rw [(Memory.entry_listed he).1]; exact h1
    · have h2 : o < b.1 := by simpa using (List.mem_filter.mp hf).2
      omega

theorem Memory.wf_range_entries (n : Nat) (f : Nat → Pixel) :
    Memory.wf ((List.range n).flatMap (fun a => Memory.entry a (f a))) := by
  induction n with
  | zero => exact Memory.wf_nil
  | succ n ih =>
    rw [List.range_succ, List.flatMap_append]
    simp only [List.flatMap_cons, List.flatMap_nil, List.append_nil]
    refine Memory.wf_append ih (Memory.wf_entry _ _) ?_
    intro a ha b hb
    obtain ⟨o, ho, hao⟩ := List.mem_flatMap.mp ha
    rw [(Memory.entry_listed hao).1, (Memory.entry_listed hb).1]
    exact List.mem_range.mp ho

/-- A rewrite keeps the canonical form. -/
theorem Memory.wf_rewrite {m : Memory} (h : m.wf) (n : Nat) (f : Nat → Pixel) :
    Memory.wf (Memory.rewrite m n f) := by
  refine Memory.wf_append (Memory.wf_range_entries n f) (Memory.wf_filter h _) ?_
  intro a ha b hb
  obtain ⟨o, ho, hao⟩ := List.mem_flatMap.mp ha
  have h1 := List.mem_range.mp ho
  have h2 : n ≤ b.1 := by simpa using (List.mem_filter.mp hb).2
  rw [(Memory.entry_listed hao).1]
  simp only; omega

theorem Memory.below_nil (n : Nat) : Memory.below [] n := fun _ h => absurd h List.not_mem_nil

/-- A write to an element that exists lists only elements that exist. -/
theorem Memory.below_set {m : Memory} {n o : Nat} (h : m.below n) (ho : o < n) (v : Pixel) :
    Memory.below (Memory.set m o v) n := by
  intro c hc
  rcases List.mem_append.mp hc with h1 | h2
  · exact h c (List.mem_filter.mp h1).1
  · rcases List.mem_append.mp h2 with he | hf
    · rw [(Memory.entry_listed he).1]; exact ho
    · exact h c (List.mem_filter.mp hf).1

theorem Memory.below_rewrite {m : Memory} {n : Nat} (h : m.below n) (f : Nat → Pixel) :
    Memory.below (Memory.rewrite m n f) n := by
  intro c hc
  rcases List.mem_append.mp hc with h1 | h2
  · obtain ⟨o, ho, hco⟩ := List.mem_flatMap.mp h1
    rw [(Memory.entry_listed hco).1]
    exact List.mem_range.mp ho
  · exact h c (List.mem_filter.mp h2).1

/-! ### Equality -/

/-- The listed value of a canonical memory is what its element reads as. -/
theorem Memory.get_of_mem {m : Memory} (h : m.wf) {c : Nat × Pixel} (hc : c ∈ m) : Memory.get m c.1 = c.2 := by
  induction m with
  | nil => cases hc
  | cons d m ih =>
    obtain ⟨a, v⟩ := d
    have hp := List.pairwise_cons.mp h.1
    rw [Memory.get_cons]
    rcases List.mem_cons.mp hc with rfl | hm
    · simp
    · have : a < c.1 := hp.1 c hm
      rw [if_neg (by omega)]
      exact ih ⟨hp.2, fun e he => h.2 e (List.mem_cons_of_mem _ he)⟩ hm

/-- Canonical memories that read alike are equal. -/
theorem Memory.ext_of_get {m n : Memory} (hm : m.wf) (hn : n.wf)
    (h : ∀ o, Memory.get m o = Memory.get n o) : m = n := by
  have hsub : ∀ {p q : Memory}, p.wf → q.wf → (∀ o, Memory.get p o = Memory.get q o) → ∀ c ∈ p, c ∈ q := by
    intro p q hp hq hpq c hc
    by_contra hnot
    have hval : Memory.get q c.1 = c.2 := by rw [← hpq]; exact Memory.get_of_mem hp hc
    by_cases hk : ∀ d ∈ q, d.1 ≠ c.1
    · exact hp.2 c hc (by rw [← hval]; exact Memory.get_of_not_listed hk)
    · push Not at hk
      obtain ⟨d, hd, hdc⟩ := hk
      have hdv : d.2 = c.2 := by rw [← Memory.get_of_mem hq hd, hdc]; exact hval
      exact hnot (by rwa [show c = d from Prod.ext hdc.symm hdv.symm])
  have hnodup : ∀ {p : Memory}, p.wf → p.Nodup := fun hp =>
    hp.1.imp fun {a b} hab e => by subst e; exact Nat.lt_irrefl _ hab
  refine List.Perm.eq_of_pairwise (le := fun a b : Nat × Pixel => a.1 < b.1)
    (fun a b _ _ hab hba => absurd (Nat.lt_trans hab hba) (Nat.lt_irrefl _)) hm.1 hn.1 ?_
  exact (List.perm_ext_iff_of_nodup (hnodup hm) (hnodup hn)).mpr fun c =>
    ⟨hsub hm hn h c, hsub hn hm (fun o => (h o).symm) c⟩

end Sys2Proof.Machine
end

