-- ==== Sys2Proof/Laws/Frame.lean ====
section
/-!
SUPPORT. Coordinates and offsets of a well-formed configuration, what one request on a port can do, and what a
whole-frame sweep reads as at a logical pixel and at a padding element.
-/

namespace Sys2Proof

/-- The six conditions of R8. -/
theorem Config.wf_iff (c : Config) :
    c.wf = true ↔ 1 ≤ c.W ∧ 1 ≤ c.H ∧ c.W ≤ c.S ∧ c.W ≤ 65536 ∧ c.H ≤ 65536 ∧ c.H * c.S ≤ 2 ^ 32 := by
  simp only [Config.wf, Bool.and_eq_true, decide_eq_true_eq, and_assoc]

theorem Config.W_le_S {c : Config} (hc : c.wf) : c.W ≤ c.S := (c.wf_iff.mp hc).2.2.1

theorem Config.inBounds_iff (c : Config) (x y : Nat) : c.inBounds x y = true ↔ x < c.W ∧ y < c.H := by
  simp [Config.inBounds]

theorem Config.isLogical_iff (c : Config) (o : Nat) :
    c.isLogical o = true ↔ o % c.S < c.W ∧ o / c.S < c.H := by
  simp [Config.isLogical, Config.inBounds_iff, Config.colOf, Config.rowOf]

/-- The column of a pixel's offset is its column. -/
theorem Config.colOf_off {c : Config} (hc : c.wf) {x : Nat} (hx : x < c.W) (y : Nat) :
    c.colOf (c.off x y) = x := by
  have h3 := c.W_le_S hc
  rw [Config.colOf, Config.off, Nat.add_comm, Nat.add_mul_mod_self_right]
  exact Nat.mod_eq_of_lt (by omega)

/-- The row of a pixel's offset is its row. -/
theorem Config.rowOf_off {c : Config} (hc : c.wf) {x : Nat} (hx : x < c.W) (y : Nat) :
    c.rowOf (c.off x y) = y := by
  have h3 := c.W_le_S hc
  rw [Config.rowOf, Config.off, Nat.add_comm, Nat.add_mul_div_right _ _ (by omega),
    Nat.div_eq_of_lt (by omega), Nat.zero_add]

/-- The offset with the column and the row of an offset is that offset. -/
theorem Config.off_colOf_rowOf (c : Config) (o : Nat) : c.off (c.colOf o) (c.rowOf o) = o := by
  rw [Config.off, Config.colOf, Config.rowOf, Nat.mul_comm]
  exact Nat.div_add_mod ..

/-- A logical pixel's offset is a logical offset. -/
theorem Config.isLogical_off {c : Config} (hc : c.wf) {x y : Nat} (hx : x < c.W) (hy : y < c.H) :
    c.isLogical (c.off x y) = true := by
  rw [Config.isLogical, c.colOf_off hc hx, c.rowOf_off hc hx, Config.inBounds_iff]
  exact ⟨hx, hy⟩

/-- A logical pixel's offset exists. -/
theorem Config.off_lt_depth {c : Config} (hc : c.wf) {x y : Nat} (hx : x < c.W) (hy : y < c.H) :
    c.off x y < c.depth := by
  have h3 := c.W_le_S hc
  have h : (y + 1) * c.S ≤ c.H * c.S := Nat.mul_le_mul_right _ hy
  rw [Nat.add_mul, Nat.one_mul] at h
  rw [Config.off, Config.depth]; omega

/-- A logical offset exists. -/
theorem Config.lt_depth_of_isLogical {c : Config} (hc : c.wf) {o : Nat} (h : c.isLogical o = true) :
    o < c.depth := by
  rw [← c.off_colOf_rowOf o]
  obtain ⟨hx, hy⟩ := (c.inBounds_iff _ _).mp h
  exact c.off_lt_depth hc hx hy

theorem Config.depth_le {c : Config} (hc : c.wf) : c.depth ≤ 2 ^ 32 := (c.wf_iff.mp hc).2.2.2.2.2

/-- The pairs of a sweep are the logical pixels (R9, R14). -/
theorem Config.mem_logicalPixels (c : Config) (x y : Nat) : (x, y) ∈ c.logicalPixels ↔ x < c.W ∧ y < c.H := by
  simp [Config.logicalPixels, and_comm]

namespace Machine

/-! ### One request on a port (R52 to R54) -/

/-- The multiplexer passes the selected source's request on unchanged. -/
@[simp] theorem framePort_eq (src : PortSource) (n : Nat) (m : Memory) (q : PortRequest) :
    framePort src n m q = portAccess n m q := by
  cases src <;> rfl

/-- Without the enable a request does nothing. -/
theorem portAccess_noRequest (n : Nat) (m : Memory) : portAccess n m noRequest = { mem := m, rdata := none } := rfl

/-- A read of an existing element returns the whole element and changes nothing. -/
theorem portAccess_read {n : Nat} (m : Memory) {a : BitVec 32} (h : a.toNat < n) :
    portAccess n m (readRequest a) = { mem := m, rdata := some (Memory.get m a.toNat) } := by
  simp [portAccess, readRequest, h]

/-- A write of an existing element replaces the whole element. -/
theorem portAccess_write {n : Nat} (m : Memory) {a : BitVec 32} (v : Pixel) (h : a.toNat < n) :
    portAccess n m (writeRequest a v) = { mem := Memory.set m a.toNat v, rdata := none } := by
  simp [portAccess, writeRequest, h]

/-- All a request can do to the memory: nothing, or the one existing element it names is replaced. -/
theorem portAccess_cases (n : Nat) (m : Memory) (q : PortRequest) :
    (portAccess n m q).mem = m ∨
      q.addr.toNat < n ∧ (portAccess n m q).mem = Memory.set m q.addr.toNat q.wdata := by
  unfold portAccess
  split
  · rename_i h
    split
    · exact .inr ⟨by simpa using (Bool.and_eq_true_iff.mp h).2, rfl⟩
    · exact .inl rfl
  · exact .inl rfl

theorem wf_portAccess {m : Memory} (h : m.wf) (n : Nat) (q : PortRequest) : (portAccess n m q).mem.wf := by
  rcases portAccess_cases n m q with e | ⟨_, e⟩ <;> rw [e]
  · exact h
  · exact Memory.wf_set h ..

theorem below_portAccess {m : Memory} {n : Nat} (h : m.below n) (q : PortRequest) :
    (portAccess n m q).mem.below n := by
  rcases portAccess_cases n m q with e | ⟨hq, e⟩ <;> rw [e]
  · exact h
  · exact Memory.below_set h hq _

/-- The 32-bit offset of a logical pixel is its offset (R110). -/
theorem toNat_addresser {c : Config} (hc : c.wf) {x y : Nat} (hx : x < c.W) (hy : y < c.H) :
    (pixelAddresser c x y).offset.toNat = c.off x y := by
  have := c.off_lt_depth hc hx hy
  have := c.depth_le hc
  rw [pixelAddresser, BitVec.toNat_ofNat, Nat.mod_eq_of_lt (by omega)]

/-- A sequencer's read of a logical pixel of the backup. -/
theorem backupRead_eq {c : Config} (hc : c.wf) (m : Memory) {x y : Nat} (hx : x < c.W) (hy : y < c.H) :
    backupRead c m x y = Memory.get m (c.off x y) := by
  have ha := toNat_addresser hc hx hy
  rw [backupRead, portAccess_read m (by rw [ha]; exact c.off_lt_depth hc hx hy), ha]
  rfl

/-- A sequencer's read of a logical pixel of the frame. -/
theorem frameRead_eq {c : Config} (hc : c.wf) (m : Memory) {x y : Nat} (hx : x < c.W) (hy : y < c.H) :
    frameRead c m x y = Memory.get m (c.off x y) := by
  rw [frameRead, framePort_eq]
  exact backupRead_eq hc m hx hy

/-! ### Sweeps -/

/-- A list of writes to existing elements, each of the value `f` gives its element: those elements are `f`'s, the
others are as before. -/
theorem get_runRequests {n : Nat} {f : Nat → Pixel} (qs : List PortRequest) (m : Memory) (o : Nat)
    (h : ∀ q ∈ qs, ∃ a : BitVec 32, a.toNat < n ∧ q = writeRequest a (f a.toNat)) :
    Memory.get (runRequests (portAccess n) m qs) o =
      if o ∈ qs.map (fun q => q.addr.toNat) then f o else Memory.get m o := by
  induction qs generalizing m with
  | nil => simp [runRequests]
  | cons q rest ih =>
    obtain ⟨a, ha, rfl⟩ := h q (List.mem_cons_self ..)
    have ih' := ih (Memory.set m a.toNat (f a.toNat)) (fun q hq => h q (List.mem_cons_of_mem _ hq))
    have hstep : runRequests (portAccess n) m (writeRequest a (f a.toNat) :: rest) =
        runRequests (portAccess n) (Memory.set m a.toNat (f a.toNat)) rest := by
      simp only [runRequests, List.foldl_cons, portAccess_write m _ ha]
    rw [hstep, ih', Memory.get_set]
    by_cases hr : o ∈ rest.map (fun q => q.addr.toNat)
    · simp [hr]
    · by_cases ho : o = a.toNat
      · subst ho; simp [writeRequest]
      · simp only [hr, if_false, List.map_cons, List.mem_cons, writeRequest, ho, or_self]

theorem wf_runRequests (n : Nat) (qs : List PortRequest) {m : Memory} (h : m.wf) :
    (runRequests (portAccess n) m qs).wf := by
  induction qs generalizing m with
  | nil => exact h
  | cons q rest ih => exact ih (wf_portAccess h n q)

theorem below_runRequests {n : Nat} (qs : List PortRequest) {m : Memory} (h : m.below n) :
    (runRequests (portAccess n) m qs).below n := by
  induction qs generalizing m with
  | nil => exact h
  | cons q rest ih => exact ih (below_portAccess h q)

/-- The frame's sweep and the backup's are the same writes; only the port differs. -/
@[simp] theorem frameSweep_eq (c : Config) (m : Memory) (g : Nat → Nat → Pixel) :
    frameSweep c m g = backupSweep c m g := rfl

/-- A sweep, at any element: the new value at a logical offset, the old one elsewhere. -/
theorem get_backupSweep {c : Config} (hc : c.wf) (m : Memory) (g : Nat → Nat → Pixel) (o : Nat) :
    Memory.get (backupSweep c m g) o = if c.isLogical o then g (c.colOf o) (c.rowOf o) else Memory.get m o := by
  have hq : ∀ q ∈ sweepRequests c g,
      ∃ a : BitVec 32, a.toNat < c.depth ∧ q = writeRequest a (g (c.colOf a.toNat) (c.rowOf a.toNat)) := by
    intro q hq
    obtain ⟨⟨x, y⟩, hp, rfl⟩ := List.mem_map.mp hq
    obtain ⟨hx, hy⟩ := (c.mem_logicalPixels x y).mp hp
    have ha := toNat_addresser hc hx hy
    exact ⟨_, by rw [ha]; exact c.off_lt_depth hc hx hy, by rw [ha, c.colOf_off hc hx, c.rowOf_off hc hx]⟩
  rw [backupSweep, get_runRequests (f := fun a => g (c.colOf a) (c.rowOf a)) _ m o hq]
  have hmem : o ∈ (sweepRequests c g).map (fun q => q.addr.toNat) ↔ c.isLogical o = true := by
    rw [sweepRequests, List.map_map, List.mem_map]
    constructor
    · rintro ⟨⟨x, y⟩, hp, rfl⟩
      obtain ⟨hx, hy⟩ := (c.mem_logicalPixels x y).mp hp
      change c.isLogical (pixelAddresser c x y).offset.toNat = true
      rw [toNat_addresser hc hx hy]
      exact c.isLogical_off hc hx hy
    · intro ho
      obtain ⟨hx, hy⟩ := (c.inBounds_iff _ _).mp ho
      exact ⟨(c.colOf o, c.rowOf o), (c.mem_logicalPixels _ _).mpr ⟨hx, hy⟩,
        (toNat_addresser hc hx hy).trans (c.off_colOf_rowOf o)⟩
  by_cases ho : c.isLogical o = true
  · rw [if_pos (hmem.mpr ho), if_pos ho]
  · rw [if_neg (fun h => ho (hmem.mp h)), if_neg ho]

/-- A sweep at a logical pixel. -/
theorem get_backupSweep_off {c : Config} (hc : c.wf) (m : Memory) (g : Nat → Nat → Pixel) {x y : Nat}
    (hx : x < c.W) (hy : y < c.H) : Memory.get (backupSweep c m g) (c.off x y) = g x y := by
  rw [get_backupSweep hc, if_pos (c.isLogical_off hc hx hy), c.colOf_off hc hx, c.rowOf_off hc hx]

/-- A sweep leaves padding alone. -/
theorem get_backupSweep_padding {c : Config} (hc : c.wf) (m : Memory) (g : Nat → Nat → Pixel) {o : Nat}
    (h : c.isLogical o = false) : Memory.get (backupSweep c m g) o = Memory.get m o := by
  rw [get_backupSweep hc, h, if_neg (by decide)]

theorem wf_backupSweep {m : Memory} (h : m.wf) (c : Config) (g : Nat → Nat → Pixel) : (backupSweep c m g).wf :=
  wf_runRequests _ _ h

theorem below_backupSweep {c : Config} {m : Memory} (h : m.below c.depth) (g : Nat → Nat → Pixel) :
    (backupSweep c m g).below c.depth := below_runRequests _ h

/-- Two sweeps of a canonical memory that agree at every logical pixel are equal. -/
theorem backupSweep_congr {c : Config} (hc : c.wf) {m : Memory} (hm : m.wf) {f g : Nat → Nat → Pixel}
    (h : ∀ x y, x < c.W → y < c.H → f x y = g x y) : backupSweep c m f = backupSweep c m g := by
  refine Memory.ext_of_get (wf_backupSweep hm c f) (wf_backupSweep hm c g) fun o => ?_
  rw [get_backupSweep hc, get_backupSweep hc]
  split
  · rename_i ho
    obtain ⟨hx, hy⟩ := (c.inBounds_iff _ _).mp ho
    exact h _ _ hx hy
  · rfl

/-! ### The whole-frame commands at a logical pixel (R140 to R143) -/

theorem get_flipped_off {c : Config} (hc : c.wf) (m : Memory) {x y : Nat} (hx : x < c.W) (hy : y < c.H) :
    Memory.get (flipped c m) (c.off x y) = Memory.get m (c.off (c.W - 1 - x) y) := by
  rw [flipped, frameSweep_eq, get_backupSweep_off hc m _ hx hy, frameRead_eq hc m (by omega) hy]

theorem get_mirrored_off {c : Config} (hc : c.wf) (m : Memory) {x y : Nat} (hx : x < c.W) (hy : y < c.H) :
    Memory.get (mirrored c m) (c.off x y) = Memory.get m (c.off x (c.H - 1 - y)) := by
  rw [mirrored, frameSweep_eq, get_backupSweep_off hc m _ hx hy, frameRead_eq hc m hx (by omega)]

theorem get_pixelwise_off {c : Config} (hc : c.wf) (f : Pixel → Pixel) (m : Memory) {x y : Nat} (hx : x < c.W)
    (hy : y < c.H) : Memory.get (pixelwise c f m) (c.off x y) = f (Memory.get m (c.off x y)) := by
  rw [pixelwise, frameSweep_eq, get_backupSweep_off hc m _ hx hy, frameRead_eq hc m hx hy]

end Machine

end Sys2Proof
end

