-- ==== Sys2Proof/Laws/State.lean ====
section
/-!
SUPPORT. What each named update of the state gives for each field: one lemma per field per update, true by unfolding,
so that no later proof unfolds a record update.
-/

namespace Sys2Proof.Machine

/-! ### `State.setFb` -/

@[simp] theorem State.setFb_cfg (s : State) (m : Memory) : (s.setFb m).cfg = s.cfg := rfl
@[simp] theorem State.setFb_tstate (s : State) (m : Memory) : (s.setFb m).tstate = s.tstate := rfl
@[simp] theorem State.setFb_fb (s : State) (m : Memory) : (s.setFb m).fb = m := rfl
@[simp] theorem State.setFb_bb (s : State) (m : Memory) : (s.setFb m).bb = s.bb := rfl
@[simp] theorem State.setFb_busy (s : State) (m : Memory) : (s.setFb m).busy = s.busy := rfl
@[simp] theorem State.setFb_cmd (s : State) (m : Memory) : (s.setFb m).cmd = s.cmd := rfl
@[simp] theorem State.setFb_rsp (s : State) (m : Memory) : (s.setFb m).rsp = s.rsp := rfl
@[simp] theorem State.setFb_rst (s : State) (m : Memory) : (s.setFb m).rst = s.rst := rfl
@[simp] theorem State.setFb_cmdValid (s : State) (m : Memory) : (s.setFb m).cmdValid = s.cmdValid := rfl
@[simp] theorem State.setFb_rspReady (s : State) (m : Memory) : (s.setFb m).rspReady = s.rspReady := rfl
@[simp] theorem State.setFb_captureEn (s : State) (m : Memory) : (s.setFb m).captureEn = s.captureEn := rfl
@[simp] theorem State.setFb_captureOverlap (s : State) (m : Memory) :
    (s.setFb m).captureOverlap =
      s.captureOverlap := rfl
@[simp] theorem State.setFb_prog (s : State) (m : Memory) : (s.setFb m).prog = s.prog := rfl
@[simp] theorem State.setFb_k (s : State) (m : Memory) : (s.setFb m).k = s.k := rfl
@[simp] theorem State.setFb_moves (s : State) (m : Memory) : (s.setFb m).moves = s.moves := rfl
@[simp] theorem State.setFb_draws (s : State) (m : Memory) : (s.setFb m).draws = s.draws := rfl

/-! ### `State.setBb` -/

@[simp] theorem State.setBb_cfg (s : State) (m : Memory) : (s.setBb m).cfg = s.cfg := rfl
@[simp] theorem State.setBb_tstate (s : State) (m : Memory) : (s.setBb m).tstate = s.tstate := rfl
@[simp] theorem State.setBb_fb (s : State) (m : Memory) : (s.setBb m).fb = s.fb := rfl
@[simp] theorem State.setBb_bb (s : State) (m : Memory) : (s.setBb m).bb = m := rfl
@[simp] theorem State.setBb_busy (s : State) (m : Memory) : (s.setBb m).busy = s.busy := rfl
@[simp] theorem State.setBb_cmd (s : State) (m : Memory) : (s.setBb m).cmd = s.cmd := rfl
@[simp] theorem State.setBb_rsp (s : State) (m : Memory) : (s.setBb m).rsp = s.rsp := rfl
@[simp] theorem State.setBb_rst (s : State) (m : Memory) : (s.setBb m).rst = s.rst := rfl
@[simp] theorem State.setBb_cmdValid (s : State) (m : Memory) : (s.setBb m).cmdValid = s.cmdValid := rfl
@[simp] theorem State.setBb_rspReady (s : State) (m : Memory) : (s.setBb m).rspReady = s.rspReady := rfl
@[simp] theorem State.setBb_captureEn (s : State) (m : Memory) : (s.setBb m).captureEn = s.captureEn := rfl
@[simp] theorem State.setBb_captureOverlap (s : State) (m : Memory) :
    (s.setBb m).captureOverlap =
      s.captureOverlap := rfl
@[simp] theorem State.setBb_prog (s : State) (m : Memory) : (s.setBb m).prog = s.prog := rfl
@[simp] theorem State.setBb_k (s : State) (m : Memory) : (s.setBb m).k = s.k := rfl
@[simp] theorem State.setBb_moves (s : State) (m : Memory) : (s.setBb m).moves = s.moves := rfl
@[simp] theorem State.setBb_draws (s : State) (m : Memory) : (s.setBb m).draws = s.draws := rfl

/-! ### `State.setTstate` -/

@[simp] theorem State.setTstate_cfg (s : State) (t : ToggleState) : (s.setTstate t).cfg = s.cfg := rfl
@[simp] theorem State.setTstate_tstate (s : State) (t : ToggleState) : (s.setTstate t).tstate = t := rfl
@[simp] theorem State.setTstate_fb (s : State) (t : ToggleState) : (s.setTstate t).fb = s.fb := rfl
@[simp] theorem State.setTstate_bb (s : State) (t : ToggleState) : (s.setTstate t).bb = s.bb := rfl
@[simp] theorem State.setTstate_busy (s : State) (t : ToggleState) : (s.setTstate t).busy = s.busy := rfl
@[simp] theorem State.setTstate_cmd (s : State) (t : ToggleState) : (s.setTstate t).cmd = s.cmd := rfl
@[simp] theorem State.setTstate_rsp (s : State) (t : ToggleState) : (s.setTstate t).rsp = s.rsp := rfl
@[simp] theorem State.setTstate_rst (s : State) (t : ToggleState) : (s.setTstate t).rst = s.rst := rfl
@[simp] theorem State.setTstate_cmdValid (s : State) (t : ToggleState) : (s.setTstate t).cmdValid = s.cmdValid := rfl
@[simp] theorem State.setTstate_rspReady (s : State) (t : ToggleState) : (s.setTstate t).rspReady = s.rspReady := rfl
@[simp] theorem State.setTstate_captureEn (s : State) (t : ToggleState) :
    (s.setTstate t).captureEn =
      s.captureEn := rfl
@[simp] theorem State.setTstate_captureOverlap (s : State) (t : ToggleState) :
    (s.setTstate t).captureOverlap =
      s.captureOverlap := rfl
@[simp] theorem State.setTstate_prog (s : State) (t : ToggleState) : (s.setTstate t).prog = s.prog := rfl
@[simp] theorem State.setTstate_k (s : State) (t : ToggleState) : (s.setTstate t).k = s.k := rfl
@[simp] theorem State.setTstate_moves (s : State) (t : ToggleState) : (s.setTstate t).moves = s.moves := rfl
@[simp] theorem State.setTstate_draws (s : State) (t : ToggleState) : (s.setTstate t).draws = s.draws := rfl

/-! ### `State.setRsp` -/

@[simp] theorem State.setRsp_cfg (s : State) (r : RspWord) : (s.setRsp r).cfg = s.cfg := rfl
@[simp] theorem State.setRsp_tstate (s : State) (r : RspWord) : (s.setRsp r).tstate = s.tstate := rfl
@[simp] theorem State.setRsp_fb (s : State) (r : RspWord) : (s.setRsp r).fb = s.fb := rfl
@[simp] theorem State.setRsp_bb (s : State) (r : RspWord) : (s.setRsp r).bb = s.bb := rfl
@[simp] theorem State.setRsp_busy (s : State) (r : RspWord) : (s.setRsp r).busy = s.busy := rfl
@[simp] theorem State.setRsp_cmd (s : State) (r : RspWord) : (s.setRsp r).cmd = s.cmd := rfl
@[simp] theorem State.setRsp_rsp (s : State) (r : RspWord) : (s.setRsp r).rsp = some r := rfl
@[simp] theorem State.setRsp_rst (s : State) (r : RspWord) : (s.setRsp r).rst = s.rst := rfl
@[simp] theorem State.setRsp_cmdValid (s : State) (r : RspWord) : (s.setRsp r).cmdValid = s.cmdValid := rfl
@[simp] theorem State.setRsp_rspReady (s : State) (r : RspWord) : (s.setRsp r).rspReady = s.rspReady := rfl
@[simp] theorem State.setRsp_captureEn (s : State) (r : RspWord) : (s.setRsp r).captureEn = s.captureEn := rfl
@[simp] theorem State.setRsp_captureOverlap (s : State) (r : RspWord) :
    (s.setRsp r).captureOverlap =
      s.captureOverlap := rfl
@[simp] theorem State.setRsp_prog (s : State) (r : RspWord) : (s.setRsp r).prog = s.prog := rfl
@[simp] theorem State.setRsp_k (s : State) (r : RspWord) : (s.setRsp r).k = s.k := rfl
@[simp] theorem State.setRsp_moves (s : State) (r : RspWord) : (s.setRsp r).moves = s.moves := rfl
@[simp] theorem State.setRsp_draws (s : State) (r : RspWord) : (s.setRsp r).draws = s.draws := rfl

/-! ### `drawFb` -/

@[simp] theorem drawFb_cfg (p : Nat → Bool) (s : State) : (drawFb p s).cfg = s.cfg := rfl
@[simp] theorem drawFb_tstate (p : Nat → Bool) (s : State) : (drawFb p s).tstate = s.tstate := rfl
@[simp] theorem drawFb_fb (p : Nat → Bool) (s : State) :
    (drawFb p s).fb =
      Memory.rewrite s.fb s.cfg.depth (fun o => if p o then Config.freeElement s.draws o else Memory.get s.fb o) := rfl
@[simp] theorem drawFb_bb (p : Nat → Bool) (s : State) : (drawFb p s).bb = s.bb := rfl
@[simp] theorem drawFb_busy (p : Nat → Bool) (s : State) : (drawFb p s).busy = s.busy := rfl
@[simp] theorem drawFb_cmd (p : Nat → Bool) (s : State) : (drawFb p s).cmd = s.cmd := rfl
@[simp] theorem drawFb_rsp (p : Nat → Bool) (s : State) : (drawFb p s).rsp = s.rsp := rfl
@[simp] theorem drawFb_rst (p : Nat → Bool) (s : State) : (drawFb p s).rst = s.rst := rfl
@[simp] theorem drawFb_cmdValid (p : Nat → Bool) (s : State) : (drawFb p s).cmdValid = s.cmdValid := rfl
@[simp] theorem drawFb_rspReady (p : Nat → Bool) (s : State) : (drawFb p s).rspReady = s.rspReady := rfl
@[simp] theorem drawFb_captureEn (p : Nat → Bool) (s : State) : (drawFb p s).captureEn = s.captureEn := rfl
@[simp] theorem drawFb_captureOverlap (p : Nat → Bool) (s : State) :
    (drawFb p s).captureOverlap =
      s.captureOverlap := rfl
@[simp] theorem drawFb_prog (p : Nat → Bool) (s : State) : (drawFb p s).prog = s.prog := rfl
@[simp] theorem drawFb_k (p : Nat → Bool) (s : State) : (drawFb p s).k = s.k := rfl
@[simp] theorem drawFb_moves (p : Nat → Bool) (s : State) : (drawFb p s).moves = s.moves := rfl
@[simp] theorem drawFb_draws (p : Nat → Bool) (s : State) : (drawFb p s).draws = s.draws + 1 := rfl

/-! ### `drawBb` -/

@[simp] theorem drawBb_cfg (s : State) : (drawBb s).cfg = s.cfg := rfl
@[simp] theorem drawBb_tstate (s : State) : (drawBb s).tstate = s.tstate := rfl
@[simp] theorem drawBb_fb (s : State) : (drawBb s).fb = s.fb := rfl
@[simp] theorem drawBb_bb (s : State) :
    (drawBb s).bb =
      Memory.rewrite s.bb s.cfg.depth (Config.freeElement s.draws) := rfl
@[simp] theorem drawBb_busy (s : State) : (drawBb s).busy = s.busy := rfl
@[simp] theorem drawBb_cmd (s : State) : (drawBb s).cmd = s.cmd := rfl
@[simp] theorem drawBb_rsp (s : State) : (drawBb s).rsp = s.rsp := rfl
@[simp] theorem drawBb_rst (s : State) : (drawBb s).rst = s.rst := rfl
@[simp] theorem drawBb_cmdValid (s : State) : (drawBb s).cmdValid = s.cmdValid := rfl
@[simp] theorem drawBb_rspReady (s : State) : (drawBb s).rspReady = s.rspReady := rfl
@[simp] theorem drawBb_captureEn (s : State) : (drawBb s).captureEn = s.captureEn := rfl
@[simp] theorem drawBb_captureOverlap (s : State) : (drawBb s).captureOverlap = s.captureOverlap := rfl
@[simp] theorem drawBb_prog (s : State) : (drawBb s).prog = s.prog := rfl
@[simp] theorem drawBb_k (s : State) : (drawBb s).k = s.k := rfl
@[simp] theorem drawBb_moves (s : State) : (drawBb s).moves = s.moves := rfl
@[simp] theorem drawBb_draws (s : State) : (drawBb s).draws = s.draws + 1 := rfl

/-! ### `overlap` -/

@[simp] theorem overlap_cfg (s : State) : (overlap s).cfg = s.cfg := rfl
@[simp] theorem overlap_tstate (s : State) : (overlap s).tstate = s.tstate := rfl
@[simp] theorem overlap_fb (s : State) : (overlap s).fb = (drawFb (fun _ => true) s).fb := rfl
@[simp] theorem overlap_bb (s : State) : (overlap s).bb = s.bb := rfl
@[simp] theorem overlap_busy (s : State) : (overlap s).busy = s.busy := rfl
@[simp] theorem overlap_cmd (s : State) : (overlap s).cmd = s.cmd := rfl
@[simp] theorem overlap_rsp (s : State) : (overlap s).rsp = s.rsp := rfl
@[simp] theorem overlap_rst (s : State) : (overlap s).rst = s.rst := rfl
@[simp] theorem overlap_cmdValid (s : State) : (overlap s).cmdValid = s.cmdValid := rfl
@[simp] theorem overlap_rspReady (s : State) : (overlap s).rspReady = s.rspReady := rfl
@[simp] theorem overlap_captureEn (s : State) : (overlap s).captureEn = s.captureEn := rfl
@[simp] theorem overlap_captureOverlap (s : State) : (overlap s).captureOverlap = true := rfl
@[simp] theorem overlap_prog (s : State) : (overlap s).prog = s.prog := rfl
@[simp] theorem overlap_k (s : State) : (overlap s).k = s.k := rfl
@[simp] theorem overlap_moves (s : State) : (overlap s).moves = s.moves := rfl
@[simp] theorem overlap_draws (s : State) : (overlap s).draws = s.draws + 1 := rfl

/-! ### `takeResponse` -/

@[simp] theorem takeResponse_cfg (s : State) : (takeResponse s).cfg = s.cfg := rfl
@[simp] theorem takeResponse_tstate (s : State) : (takeResponse s).tstate = s.tstate := rfl
@[simp] theorem takeResponse_fb (s : State) : (takeResponse s).fb = s.fb := rfl
@[simp] theorem takeResponse_bb (s : State) : (takeResponse s).bb = s.bb := rfl
@[simp] theorem takeResponse_busy (s : State) : (takeResponse s).busy = false := rfl
@[simp] theorem takeResponse_cmd (s : State) : (takeResponse s).cmd = s.cmd := rfl
@[simp] theorem takeResponse_rsp (s : State) : (takeResponse s).rsp = none := rfl
@[simp] theorem takeResponse_rst (s : State) : (takeResponse s).rst = s.rst := rfl
@[simp] theorem takeResponse_cmdValid (s : State) : (takeResponse s).cmdValid = s.cmdValid := rfl
@[simp] theorem takeResponse_rspReady (s : State) : (takeResponse s).rspReady = s.rspReady := rfl
@[simp] theorem takeResponse_captureEn (s : State) : (takeResponse s).captureEn = s.captureEn := rfl
@[simp] theorem takeResponse_captureOverlap (s : State) : (takeResponse s).captureOverlap = s.captureOverlap := rfl
@[simp] theorem takeResponse_prog (s : State) : (takeResponse s).prog = s.prog := rfl
@[simp] theorem takeResponse_k (s : State) : (takeResponse s).k = s.k := rfl
@[simp] theorem takeResponse_moves (s : State) : (takeResponse s).moves = s.moves := rfl
@[simp] theorem takeResponse_draws (s : State) : (takeResponse s).draws = s.draws := rfl

/-! ### `toggleApply` -/

@[simp] theorem toggleApply_cfg (s : State) : (toggleApply s).cfg = s.cfg := rfl
@[simp] theorem toggleApply_tstate (s : State) : (toggleApply s).tstate = .grayscale := rfl
@[simp] theorem toggleApply_fb (s : State) : (toggleApply s).fb = pixelwise s.cfg gray s.fb := rfl
@[simp] theorem toggleApply_bb (s : State) :
    (toggleApply s).bb =
      backupSweep s.cfg s.bb (frameRead s.cfg s.fb) := rfl
@[simp] theorem toggleApply_busy (s : State) : (toggleApply s).busy = s.busy := rfl
@[simp] theorem toggleApply_cmd (s : State) : (toggleApply s).cmd = s.cmd := rfl
@[simp] theorem toggleApply_rsp (s : State) : (toggleApply s).rsp = s.rsp := rfl
@[simp] theorem toggleApply_rst (s : State) : (toggleApply s).rst = s.rst := rfl
@[simp] theorem toggleApply_cmdValid (s : State) : (toggleApply s).cmdValid = s.cmdValid := rfl
@[simp] theorem toggleApply_rspReady (s : State) : (toggleApply s).rspReady = s.rspReady := rfl
@[simp] theorem toggleApply_captureEn (s : State) : (toggleApply s).captureEn = s.captureEn := rfl
@[simp] theorem toggleApply_captureOverlap (s : State) : (toggleApply s).captureOverlap = s.captureOverlap := rfl
@[simp] theorem toggleApply_prog (s : State) : (toggleApply s).prog = s.prog := rfl
@[simp] theorem toggleApply_k (s : State) : (toggleApply s).k = s.k := rfl
@[simp] theorem toggleApply_moves (s : State) : (toggleApply s).moves = s.moves := rfl
@[simp] theorem toggleApply_draws (s : State) : (toggleApply s).draws = s.draws := rfl

/-! ### `toggleRestore` -/

@[simp] theorem toggleRestore_cfg (s : State) : (toggleRestore s).cfg = s.cfg := rfl
@[simp] theorem toggleRestore_tstate (s : State) : (toggleRestore s).tstate = .color := rfl
@[simp] theorem toggleRestore_fb (s : State) :
    (toggleRestore s).fb =
      frameSweep s.cfg s.fb (backupRead s.cfg s.bb) := rfl
@[simp] theorem toggleRestore_bb (s : State) : (toggleRestore s).bb = s.bb := rfl
@[simp] theorem toggleRestore_busy (s : State) : (toggleRestore s).busy = s.busy := rfl
@[simp] theorem toggleRestore_cmd (s : State) : (toggleRestore s).cmd = s.cmd := rfl
@[simp] theorem toggleRestore_rsp (s : State) : (toggleRestore s).rsp = s.rsp := rfl
@[simp] theorem toggleRestore_rst (s : State) : (toggleRestore s).rst = s.rst := rfl
@[simp] theorem toggleRestore_cmdValid (s : State) : (toggleRestore s).cmdValid = s.cmdValid := rfl
@[simp] theorem toggleRestore_rspReady (s : State) : (toggleRestore s).rspReady = s.rspReady := rfl
@[simp] theorem toggleRestore_captureEn (s : State) : (toggleRestore s).captureEn = s.captureEn := rfl
@[simp] theorem toggleRestore_captureOverlap (s : State) : (toggleRestore s).captureOverlap = s.captureOverlap := rfl
@[simp] theorem toggleRestore_prog (s : State) : (toggleRestore s).prog = s.prog := rfl
@[simp] theorem toggleRestore_k (s : State) : (toggleRestore s).k = s.k := rfl
@[simp] theorem toggleRestore_moves (s : State) : (toggleRestore s).moves = s.moves := rfl
@[simp] theorem toggleRestore_draws (s : State) : (toggleRestore s).draws = s.draws := rfl

/-! ### `accept`, `setCapture`, `resetBlock`: the fields no case of them touches -/

@[simp] theorem accept_cfg (w : CmdWord) (s : State) : (accept w s).cfg = s.cfg := by
  unfold accept; split <;> rfl
@[simp] theorem accept_tstate (w : CmdWord) (s : State) : (accept w s).tstate = s.tstate := by
  unfold accept; split <;> rfl
@[simp] theorem accept_bb (w : CmdWord) (s : State) : (accept w s).bb = s.bb := by
  unfold accept; split <;> rfl
@[simp] theorem accept_rsp (w : CmdWord) (s : State) : (accept w s).rsp = s.rsp := by
  unfold accept; split <;> rfl
@[simp] theorem accept_rst (w : CmdWord) (s : State) : (accept w s).rst = s.rst := by
  unfold accept; split <;> rfl
@[simp] theorem accept_cmdValid (w : CmdWord) (s : State) : (accept w s).cmdValid = s.cmdValid := by
  unfold accept; split <;> rfl
@[simp] theorem accept_rspReady (w : CmdWord) (s : State) : (accept w s).rspReady = s.rspReady := by
  unfold accept; split <;> rfl
@[simp] theorem accept_captureEn (w : CmdWord) (s : State) : (accept w s).captureEn = s.captureEn := by
  unfold accept; split <;> rfl
@[simp] theorem accept_prog (w : CmdWord) (s : State) : (accept w s).prog = s.prog := by
  unfold accept; split <;> rfl
@[simp] theorem accept_moves (w : CmdWord) (s : State) : (accept w s).moves = s.moves := by
  unfold accept; split <;> rfl

@[simp] theorem setCapture_cfg (v : Bool) (s : State) : (setCapture v s).cfg = s.cfg := by
  unfold setCapture; split <;> rfl
@[simp] theorem setCapture_tstate (v : Bool) (s : State) : (setCapture v s).tstate = s.tstate := by
  unfold setCapture; split <;> rfl
@[simp] theorem setCapture_bb (v : Bool) (s : State) : (setCapture v s).bb = s.bb := by
  unfold setCapture; split <;> rfl
@[simp] theorem setCapture_busy (v : Bool) (s : State) : (setCapture v s).busy = s.busy := by
  unfold setCapture; split <;> rfl
@[simp] theorem setCapture_cmd (v : Bool) (s : State) : (setCapture v s).cmd = s.cmd := by
  unfold setCapture; split <;> rfl
@[simp] theorem setCapture_rsp (v : Bool) (s : State) : (setCapture v s).rsp = s.rsp := by
  unfold setCapture; split <;> rfl
@[simp] theorem setCapture_rst (v : Bool) (s : State) : (setCapture v s).rst = s.rst := by
  unfold setCapture; split <;> rfl
@[simp] theorem setCapture_cmdValid (v : Bool) (s : State) : (setCapture v s).cmdValid = s.cmdValid := by
  unfold setCapture; split <;> rfl
@[simp] theorem setCapture_rspReady (v : Bool) (s : State) : (setCapture v s).rspReady = s.rspReady := by
  unfold setCapture; split <;> rfl
@[simp] theorem setCapture_prog (v : Bool) (s : State) : (setCapture v s).prog = s.prog := by
  unfold setCapture; split <;> rfl
@[simp] theorem setCapture_k (v : Bool) (s : State) : (setCapture v s).k = s.k := by
  unfold setCapture; split <;> rfl
@[simp] theorem setCapture_moves (v : Bool) (s : State) : (setCapture v s).moves = s.moves := by
  unfold setCapture; split <;> rfl

@[simp] theorem abandon_cfg (s : State) : (abandon s).cfg = s.cfg := by
  unfold abandon; split <;> rfl
@[simp] theorem abandon_tstate (s : State) : (abandon s).tstate = s.tstate := by
  unfold abandon; split <;> rfl
@[simp] theorem abandon_busy (s : State) : (abandon s).busy = s.busy := by
  unfold abandon; split <;> rfl
@[simp] theorem abandon_cmd (s : State) : (abandon s).cmd = s.cmd := by
  unfold abandon; split <;> rfl
@[simp] theorem abandon_rsp (s : State) : (abandon s).rsp = s.rsp := by
  unfold abandon; split <;> rfl
@[simp] theorem abandon_rst (s : State) : (abandon s).rst = s.rst := by
  unfold abandon; split <;> rfl
@[simp] theorem abandon_cmdValid (s : State) : (abandon s).cmdValid = s.cmdValid := by
  unfold abandon; split <;> rfl
@[simp] theorem abandon_rspReady (s : State) : (abandon s).rspReady = s.rspReady := by
  unfold abandon; split <;> rfl
@[simp] theorem abandon_captureEn (s : State) : (abandon s).captureEn = s.captureEn := by
  unfold abandon; split <;> rfl
@[simp] theorem abandon_captureOverlap (s : State) : (abandon s).captureOverlap = s.captureOverlap := by
  unfold abandon; split <;> rfl
@[simp] theorem abandon_prog (s : State) : (abandon s).prog = s.prog := by
  unfold abandon; split <;> rfl
@[simp] theorem abandon_k (s : State) : (abandon s).k = s.k := by
  unfold abandon; split <;> rfl
@[simp] theorem abandon_moves (s : State) : (abandon s).moves = s.moves := by
  unfold abandon; split <;> rfl

@[simp] theorem accept_busy (w : CmdWord) (s : State) : (accept w s).busy = true := by
  unfold accept; split <;> rfl
@[simp] theorem accept_cmd (w : CmdWord) (s : State) : (accept w s).cmd = w := by
  unfold accept; split <;> rfl
@[simp] theorem accept_k (w : CmdWord) (s : State) : (accept w s).k = s.k + 1 := by
  unfold accept; split <;> rfl
@[simp] theorem setCapture_captureEn (v : Bool) (s : State) : (setCapture v s).captureEn = v := by
  unfold setCapture; split <;> rfl

@[simp] theorem resetBlock_cfg (s : State) : (resetBlock s).cfg = s.cfg := abandon_cfg s
@[simp] theorem resetBlock_tstate (s : State) : (resetBlock s).tstate = .color := rfl
@[simp] theorem resetBlock_fb (s : State) : (resetBlock s).fb = (abandon s).fb := rfl
@[simp] theorem resetBlock_bb (s : State) : (resetBlock s).bb = (abandon s).bb := rfl
@[simp] theorem resetBlock_busy (s : State) : (resetBlock s).busy = false := rfl
@[simp] theorem resetBlock_cmd (s : State) : (resetBlock s).cmd = 0 := rfl
@[simp] theorem resetBlock_rsp (s : State) : (resetBlock s).rsp = none := rfl
@[simp] theorem resetBlock_rst (s : State) : (resetBlock s).rst = s.rst := abandon_rst s
@[simp] theorem resetBlock_cmdValid (s : State) : (resetBlock s).cmdValid = s.cmdValid := abandon_cmdValid s
@[simp] theorem resetBlock_rspReady (s : State) : (resetBlock s).rspReady = s.rspReady := abandon_rspReady s
@[simp] theorem resetBlock_captureEn (s : State) : (resetBlock s).captureEn = s.captureEn := abandon_captureEn s
@[simp] theorem resetBlock_captureOverlap (s : State) : (resetBlock s).captureOverlap = s.captureOverlap := abandon_captureOverlap s
@[simp] theorem resetBlock_prog (s : State) : (resetBlock s).prog = s.prog := abandon_prog s
@[simp] theorem resetBlock_k (s : State) : (resetBlock s).k = s.k := abandon_k s
@[simp] theorem resetBlock_moves (s : State) : (resetBlock s).moves = s.moves := abandon_moves s
@[simp] theorem resetBlock_draws (s : State) : (resetBlock s).draws = (abandon s).draws := rfl

end Sys2Proof.Machine
end

