-- ==== Sys2Proof/Laws/Command.lean ====
section
/-!
SUPPORT. What a command can do, said once: how `respond`, `raise`, the bounds check and the frame port answer, the
fields of a response word, and which fields no command touches.
-/

namespace Sys2Proof.Machine

/-! ### The response word -/

/-- A response word as a number (R90). -/
theorem toNat_rspWord (t : ToggleState) (e : BitVec 4) (r : BitVec 32) :
    (rspWord t e r).toNat = t.bit.toNat * 2 ^ 36 + (e.toNat * 2 ^ 32 + r.toNat) := by
  have h1 := toNat_append_add e r
  have h2 := toNat_append_add t.bit (e ++ r)
  have h3 := toNat_append_add 0#27 (t.bit ++ (e ++ r))
  rw [h2, h1] at h3
  refine h3.trans ?_
  simp

@[simp] theorem rspReserved_rspWord (t : ToggleState) (e : BitVec 4) (r : BitVec 32) :
    rspReserved (rspWord t e r) = 0 := by
  apply BitVec.eq_of_toNat_eq
  rw [rspReserved, BitVec.extractLsb'_toNat, toNat_rspWord, Nat.shiftRight_eq_div_pow]
  have := t.bit.isLt; have := e.isLt; have := r.isLt
  simp only [BitVec.toNat_ofNat, BitVec.ofNat_eq_ofNat]
  omega

@[simp] theorem rspState_rspWord (t : ToggleState) (e : BitVec 4) (r : BitVec 32) :
    rspState (rspWord t e r) = t.bit := by
  apply BitVec.eq_of_toNat_eq
  rw [rspState, BitVec.extractLsb'_toNat, toNat_rspWord, Nat.shiftRight_eq_div_pow]
  have := t.bit.isLt; have := e.isLt; have := r.isLt
  omega

@[simp] theorem rspErr_rspWord (t : ToggleState) (e : BitVec 4) (r : BitVec 32) :
    rspErr (rspWord t e r) = e := by
  apply BitVec.eq_of_toNat_eq
  rw [rspErr, BitVec.extractLsb'_toNat, toNat_rspWord, Nat.shiftRight_eq_div_pow]
  have := t.bit.isLt; have := e.isLt; have := r.isLt
  omega

@[simp] theorem rspResult_rspWord (t : ToggleState) (e : BitVec 4) (r : BitVec 32) :
    rspResult (rspWord t e r) = r := by
  apply BitVec.eq_of_toNat_eq
  rw [rspResult, BitVec.extractLsb'_toNat, toNat_rspWord, Nat.shiftRight_eq_div_pow]
  have := t.bit.isLt; have := e.isLt; have := r.isLt
  omega

/-! ### How a command ends -/

theorem respond_eq (r : BitVec 32) (s : State) : respond r s = .next (s.setRsp (rspWord s.tstate 0 r)) := rfl

theorem raise_eq (e : Err) (s : State) : raise e s = .next (s.setRsp (rspWord s.tstate e.code 0)) := rfl

/-- The bounds check lets a logical pixel through, with its offset. -/
theorem atPixel_of_inBounds {x y : Nat} {s : State} (h : s.cfg.inBounds x y = true)
    (f : BitVec 32 → Host.Outcome State Fault Refusal) :
    atPixel x y s f = f (BitVec.ofNat 32 (s.cfg.off x y)) := by
  simp [atPixel, pixelAddresser, h]

/-- The bounds check turns every other pair away before anything else happens. -/
theorem atPixel_of_outOfBounds {x y : Nat} {s : State} (h : s.cfg.inBounds x y = false)
    (f : BitVec 32 → Host.Outcome State Fault Refusal) : atPixel x y s f = raise .invalidCoordinate s := by
  simp [atPixel, pixelAddresser, h]

/-- The 32-bit offset of a logical pixel is its offset. -/
theorem toNat_ofNat_off {c : Config} (hc : c.wf) {x y : Nat} (h : c.inBounds x y = true) :
    (BitVec.ofNat 32 (c.off x y)).toNat = c.off x y := by
  obtain ⟨hx, hy⟩ := (c.inBounds_iff x y).mp h
  exact toNat_addresser hc hx hy

/-- The port reads a logical pixel. -/
theorem memRead_off {s : State} (hc : s.cfg.wf) {x y : Nat} (h : s.cfg.inBounds x y = true) :
    memRead s (BitVec.ofNat 32 (s.cfg.off x y)) = some (Memory.get s.fb (s.cfg.off x y)) := by
  obtain ⟨hx, hy⟩ := (s.cfg.inBounds_iff x y).mp h
  have ha := toNat_ofNat_off hc h
  rw [memRead, framePort_eq, portAccess_read _ (by rw [ha]; exact s.cfg.off_lt_depth hc hx hy), ha]

/-- The port writes a logical pixel. -/
theorem memWrite_off {s : State} (hc : s.cfg.wf) {x y : Nat} (h : s.cfg.inBounds x y = true) (v : Pixel) :
    memWrite s (BitVec.ofNat 32 (s.cfg.off x y)) v = some (s.setFb (Memory.set s.fb (s.cfg.off x y) v)) := by
  obtain ⟨hx, hy⟩ := (s.cfg.inBounds_iff x y).mp h
  have ha := toNat_ofNat_off hc h
  have hlt : (BitVec.ofNat 32 (s.cfg.off x y)).toNat < s.cfg.depth := by
    rw [ha]; exact s.cfg.off_lt_depth hc hx hy
  rw [memWrite, if_pos hlt, framePort_eq, portAccess_write _ _ hlt, ha]

/-- All a port write can do: the one existing element it names is replaced. -/
theorem memWrite_cases {s t : State} {a : BitVec 32} {v : Pixel} (h : memWrite s a v = some t) :
    a.toNat < s.cfg.depth ∧ t = s.setFb (Memory.set s.fb a.toNat v) := by
  unfold memWrite at h
  split at h
  · rename_i ha
    rw [framePort_eq, portAccess_write _ _ ha] at h
    exact ⟨ha, (Option.some.inj h).symm⟩
  · cases h

/-- READ can answer a next state only with a response and nothing else changed. -/
theorem execRead_next {x y : Nat} {s t : State} (h : execRead x y s = .next t) :
    ∃ e r, (e = 0 ∨ e = 1 ∧ r = 0) ∧ t = s.setRsp (rspWord s.tstate e r) := by
  by_cases hb : s.cfg.inBounds x y = true
  · rw [execRead, atPixel_of_inBounds hb] at h
    split at h
    · exact ⟨0, _, .inl rfl, (Host.Outcome.next.inj h).symm⟩
    · cases h
  · rw [execRead, atPixel_of_outOfBounds (by simpa using hb)] at h
    exact ⟨1, 0, .inr ⟨rfl, rfl⟩, (Host.Outcome.next.inj h).symm⟩

/-- WRITE can answer a next state only by writing one existing element, or by raising with nothing written. -/
theorem execWrite_next {x y : Nat} {v : Pixel} {s t : State} (h : execWrite x y v s = .next t) :
    (s.cfg.inBounds x y = true ∧ (BitVec.ofNat 32 (s.cfg.off x y)).toNat < s.cfg.depth ∧
      t = (s.setFb (Memory.set s.fb (BitVec.ofNat 32 (s.cfg.off x y)).toNat v)).setRsp (rspWord s.tstate 0 0)) ∨
    (s.cfg.inBounds x y = false ∧ t = s.setRsp (rspWord s.tstate 1 0)) := by
  by_cases hb : s.cfg.inBounds x y = true
  · rw [execWrite, atPixel_of_inBounds hb] at h
    split at h
    · rename_i u hu
      obtain ⟨hlt, rfl⟩ := memWrite_cases hu
      exact .inl ⟨hb, hlt, (Host.Outcome.next.inj h).symm⟩
    · cases h
  · rw [execWrite, atPixel_of_outOfBounds (by simpa using hb)] at h
    exact .inr ⟨by simpa using hb, (Host.Outcome.next.inj h).symm⟩

/-! ### All a command can do -/

/-- The next states a command can answer (R113 to R170): only a response; one element of the frame; every logical
pixel of the frame; a toggle transition; a return to Color. -/
theorem exec_cases {i : Instr} {s t : State} (h : exec i s = .next t) :
    (∃ e r, (e = 0 ∨ (e = 1 ∨ e = 3) ∧ r = 0) ∧ t = s.setRsp (rspWord s.tstate e r)) ∨
    (∃ x y v, i = .write x y v ∧ s.cfg.inBounds x y = true ∧
      (BitVec.ofNat 32 (s.cfg.off x y)).toNat < s.cfg.depth ∧
      t = (s.setFb (Memory.set s.fb (BitVec.ofNat 32 (s.cfg.off x y)).toNat v)).setRsp (rspWord s.tstate 0 0)) ∨
    (∃ g, movesToggle i = false ∧
      t = (s.setFb (frameSweep s.cfg s.fb g)).setRsp (rspWord s.tstate 0 0)) ∨
    (s.tstate = .color ∧ t = (toggleApply s).setRsp (rspWord .grayscale 0 0)) ∨
    (s.tstate = .grayscale ∧ t = (toggleRestore s).setRsp (rspWord .color 0 0)) ∨
    (i = .newframe ∧ t = (s.setTstate .color).setRsp (rspWord .color 0 0)) := by
  cases i with
  | status => exact .inl ⟨0, 0, .inl rfl, (Host.Outcome.next.inj h).symm⟩
  | addr x y =>
    refine .inl ?_
    change atPixel x y s (fun a => respond a s) = .next t at h
    by_cases hb : s.cfg.inBounds x y = true
    · exact ⟨0, _, .inl rfl, (Host.Outcome.next.inj ((atPixel_of_inBounds hb _).symm.trans h)).symm⟩
    · have hb' : s.cfg.inBounds x y = false := by simpa using hb
      exact ⟨1, 0, .inr ⟨.inl rfl, rfl⟩, (Host.Outcome.next.inj ((atPixel_of_outOfBounds hb' _).symm.trans h)).symm⟩
  | read x y =>
    obtain ⟨e, r, he, ht⟩ := execRead_next h
    exact .inl ⟨e, r, he.imp_right fun h => ⟨.inl h.1, h.2⟩, ht⟩
  | write x y v =>
    rcases execWrite_next h with ⟨hb, hlt, ht⟩ | ⟨_, ht⟩
    · exact .inr (.inl ⟨x, y, v, rfl, hb, hlt, ht⟩)
    · exact .inl ⟨1, 0, .inr ⟨.inl rfl, rfl⟩, ht⟩
  | fliph => exact .inr (.inr (.inl ⟨_, rfl, (Host.Outcome.next.inj h).symm⟩))
  | mirrv => exact .inr (.inr (.inl ⟨_, rfl, (Host.Outcome.next.inj h).symm⟩))
  | invert => exact .inr (.inr (.inl ⟨_, rfl, (Host.Outcome.next.inj h).symm⟩))
  | gray => exact .inr (.inr (.inl ⟨_, rfl, (Host.Outcome.next.inj h).symm⟩))
  | gtoggle =>
    simp only [exec, execGtoggle] at h
    split at h
    · exact .inr (.inr (.inr (.inl ⟨‹_›, (Host.Outcome.next.inj h).symm⟩)))
    · exact .inr (.inr (.inr (.inr (.inl ⟨‹_›, (Host.Outcome.next.inj h).symm⟩))))
  | gapply =>
    simp only [exec, execGapply] at h
    split at h
    · exact .inr (.inr (.inr (.inl ⟨‹_›, (Host.Outcome.next.inj h).symm⟩)))
    · exact .inl ⟨3, 0, .inr ⟨.inr rfl, rfl⟩, (Host.Outcome.next.inj h).symm⟩
  | grestore =>
    simp only [exec, execGrestore] at h
    split at h
    · exact .inl ⟨3, 0, .inr ⟨.inr rfl, rfl⟩, (Host.Outcome.next.inj h).symm⟩
    · exact .inr (.inr (.inr (.inr (.inl ⟨‹_›, (Host.Outcome.next.inj h).symm⟩))))
  | newframe => exact .inr (.inr (.inr (.inr (.inr ⟨rfl, (Host.Outcome.next.inj h).symm⟩))))

end Sys2Proof.Machine
end

