-- ==== Sys2Proof/Laws/Handshake.lean ====
section
/-!
SUPPORT. What a step of the system can do, said once: the next thing when no move is left, and one move otherwise.
-/

namespace Sys2Proof.Machine

theorem onNext_next {f : State → State} {r : Host.Outcome State Fault Refusal} {t : State}
    (h : onNext f r = .next t) : ∃ u, r = .next u ∧ t = f u := by
  cases r with
  | next u => exact ⟨u, rfl, (Host.Outcome.next.inj h).symm⟩
  | fault e => cases h
  | refused e => cases h

/-- The command a word runs, or IllegalCommand (R89). -/
theorem runCommand_cases {s t : State} (h : runCommand s = .next t) :
    (∃ i, decode s.cmd = .ok i ∧ exec i s = .next t) ∨
    (∃ e, decode s.cmd = .error e ∧ t = s.setRsp (rspWord s.tstate 4 0)) := by
  unfold runCommand at h
  split at h
  · exact .inl ⟨_, ‹_›, h⟩
  · exact .inr ⟨_, ‹_›, (Host.Outcome.next.inj h).symm⟩

/-- The complete step, with and without an overlap (R60, R62). -/
theorem complete_cases {s t : State} (h : complete s = .next t) :
    (s.captureEn = false ∧ s.captureOverlap = false ∧ runCommand s = .next t) ∨
    (∃ u, runCommand (overlap s) = .next u ∧ t = overlap u) := by
  unfold complete at h
  split at h
  · exact .inr (onNext_next h)
  · rename_i hc
    simp only [Bool.or_eq_true, not_or, Bool.not_eq_true] at hc
    exact .inl ⟨hc.1, hc.2, h⟩

/-- One clock edge (R60, R96, R220). -/
theorem progress_cases {s t : State} (h : progress s = .next t) :
    (s.rst = true ∧ t = resetBlock s) ∨
    (s.rst = false ∧ s.busy = true ∧ s.rsp = none ∧ complete s = .next t) ∨
    (s.rst = false ∧ s.busy = true ∧ s.rsp.isSome = true ∧ t = if s.rspReady then takeResponse s else s) ∨
    (s.rst = false ∧ s.busy = false ∧ t = offer s) := by
  unfold progress at h
  split at h
  · exact .inl ⟨‹_›, (Host.Outcome.next.inj h).symm⟩
  · rename_i hr
    have hr' : s.rst = false := by simpa using hr
    split at h
    · split at h
      · exact .inr (.inl ⟨hr', ‹_›, ‹_›, h⟩)
      · rename_i hb _ r hrs
        exact .inr (.inr (.inl ⟨hr', hb, by rw [hrs]; rfl, (Host.Outcome.next.inj h).symm⟩))
    · rename_i hb
      exact .inr (.inr (.inr ⟨hr', by simpa using hb, (Host.Outcome.next.inj h).symm⟩))

/-- An idle block takes a command or stays as it is (R96). -/
theorem offer_cases (s : State) :
    offer s = s ∨ ∃ w, s.cmdValid = true ∧ s.prog[s.k]? = some w ∧ offer s = accept w s := by
  unfold offer
  split
  · split
    · exact .inr ⟨_, ‹_›, ‹_›, rfl⟩
    · exact .inl rfl
  · exact .inl rfl

/-- A camera move writes one existing element while capture is enabled, or changes nothing (R32). -/
theorem cameraWrite_cases {o : Nat} {v : Pixel} {s t : State} (h : cameraWrite o v s = .next t) :
    (s.captureEn = true ∧ o < s.cfg.depth ∧ t = s.setFb (Memory.set s.fb o v)) ∨
    (s.captureEn = false ∧ t = s) := by
  unfold cameraWrite at h
  split at h
  · split at h
    · exact .inl ⟨‹_›, ‹_›, (Host.Outcome.next.inj h).symm⟩
    · cases h
  · exact .inr ⟨by simpa using ‹¬s.captureEn = true›, (Host.Outcome.next.inj h).symm⟩

/-- The step when no move is left (R60, R202). -/
theorem step_of_no_move {s : State} (hc : s.cfg.wf) (hm : s.moves = []) :
    step s = if s.stuck then .fault .responseNeverTaken else progress s := by
  simp only [step, systemStep, hc, hm, if_true]

/-- The step when a move is left (R13). -/
theorem step_of_move {s : State} {m : Move} {ms : List Move} (hc : s.cfg.wf) (hm : s.moves = m :: ms) :
    step s = applyMove m { s with moves := ms } := by
  simp only [step, systemStep, hc, hm, if_true]

/-- The step at a clock edge, however it is given (R96). -/
theorem step_of_edge {s : State} {ms : List Move} (hc : s.cfg.wf) (hs : s.stuck = false) (he : s.atEdge ms) :
    step s = progress { s with moves := ms } := by
  rcases he with hm | ⟨hm, rfl⟩
  · exact step_of_move hc hm
  · rw [step_of_no_move hc hm, hs, if_neg (by decide)]
    exact congrArg progress (by rw [← hm])

/-- A step needs a well-formed configuration, and is one move or one clock edge. -/
theorem step_cases {s t : State} (h : step s = .next t) :
    s.cfg.wf ∧
      ((∃ m ms, s.moves = m :: ms ∧ applyMove m { s with moves := ms } = .next t) ∨
       (s.moves = [] ∧ s.stuck = false ∧ progress s = .next t)) := by
  unfold step systemStep at h
  split at h
  · refine ⟨‹_›, ?_⟩
    split at h
    · exact .inl ⟨_, _, ‹_›, h⟩
    · split at h
      · cases h
      · exact .inr ⟨‹_›, by simpa using ‹¬s.stuck = true›, h⟩
  · cases h

end Sys2Proof.Machine
end

