-- ==== Sys2Proof/Laws/PerInstr.lean ====
section
/-!
SUPPORT. For every command: its word stands in the row of the opcode table with its opcode, reserved bits clear.
-/

namespace Sys2Proof.Laws

/-- The word of given fields as a number (R80, R93). -/
theorem toNat_packCmd (op x y : Nat) (d : Pixel) :
    (packCmd op x y d).toNat =
      op % 16 * 2 ^ 60 + (y % 65536 * 2 ^ 32 + (x % 65536 * 2 ^ 16 + d.toNat)) := by
  have h1 := toNat_append_add (BitVec.ofNat 16 x) d
  have h2 := toNat_append_add (BitVec.ofNat 16 y) (BitVec.ofNat 16 x ++ d)
  have h3 := toNat_append_add 0#12 (BitVec.ofNat 16 y ++ (BitVec.ofNat 16 x ++ d))
  have h4 := toNat_append_add (BitVec.ofNat 4 op) (0#12 ++ (BitVec.ofNat 16 y ++ (BitVec.ofNat 16 x ++ d)))
  rw [h3, h2, h1] at h4
  refine h4.trans ?_
  simp only [BitVec.toNat_ofNat]
  omega

theorem fieldOp_packCmd (op x y : Nat) (d : Pixel) : fieldOp (packCmd op x y d) = BitVec.ofNat 4 op := by
  apply BitVec.eq_of_toNat_eq
  rw [fieldOp, BitVec.extractLsb'_toNat, toNat_packCmd, BitVec.toNat_ofNat, Nat.shiftRight_eq_div_pow]
  have := d.isLt
  omega

theorem fieldRsv_packCmd (op x y : Nat) (d : Pixel) : fieldRsv (packCmd op x y d) = 0 := by
  apply BitVec.eq_of_toNat_eq
  rw [fieldRsv, BitVec.extractLsb'_toNat, toNat_packCmd, Nat.shiftRight_eq_div_pow]
  have := d.isLt
  simp only [BitVec.toNat_ofNat, BitVec.ofNat_eq_ofNat]
  omega

theorem fieldY_packCmd (op x y : Nat) (d : Pixel) : fieldY (packCmd op x y d) = BitVec.ofNat 16 y := by
  apply BitVec.eq_of_toNat_eq
  rw [fieldY, BitVec.extractLsb'_toNat, toNat_packCmd, BitVec.toNat_ofNat, Nat.shiftRight_eq_div_pow]
  have := d.isLt
  omega

theorem fieldX_packCmd (op x y : Nat) (d : Pixel) : fieldX (packCmd op x y d) = BitVec.ofNat 16 x := by
  apply BitVec.eq_of_toNat_eq
  rw [fieldX, BitVec.extractLsb'_toNat, toNat_packCmd, BitVec.toNat_ofNat, Nat.shiftRight_eq_div_pow]
  have := d.isLt
  omega

theorem fieldData_packCmd (op x y : Nat) (d : Pixel) : fieldData (packCmd op x y d) = d := by
  apply BitVec.eq_of_toNat_eq
  rw [fieldData, BitVec.extractLsb'_toNat, toNat_packCmd, Nat.shiftRight_eq_div_pow]
  have := d.isLt
  omega

end Sys2Proof.Laws

namespace Sys2Proof.Laws.Row

/-- The command's word has its opcode and clear reserved bits (R80, R82, R86). -/
def Statement (i : Instr) : Prop :=
  fieldOp (encode i) = BitVec.ofNat 4 i.opcode ∧ fieldRsv (encode i) = 0

theorem status : Statement .status := ⟨fieldOp_packCmd .., fieldRsv_packCmd ..⟩
theorem addr (x y : Nat) : Statement (.addr x y) := ⟨fieldOp_packCmd .., fieldRsv_packCmd ..⟩
theorem read (x y : Nat) : Statement (.read x y) := ⟨fieldOp_packCmd .., fieldRsv_packCmd ..⟩
theorem write (x y : Nat) (data : Pixel) : Statement (.write x y data) :=
  ⟨fieldOp_packCmd .., fieldRsv_packCmd ..⟩
theorem fliph : Statement .fliph := ⟨fieldOp_packCmd .., fieldRsv_packCmd ..⟩
theorem mirrv : Statement .mirrv := ⟨fieldOp_packCmd .., fieldRsv_packCmd ..⟩
theorem invert : Statement .invert := ⟨fieldOp_packCmd .., fieldRsv_packCmd ..⟩
theorem gray : Statement .gray := ⟨fieldOp_packCmd .., fieldRsv_packCmd ..⟩
theorem gtoggle : Statement .gtoggle := ⟨fieldOp_packCmd .., fieldRsv_packCmd ..⟩
theorem gapply : Statement .gapply := ⟨fieldOp_packCmd .., fieldRsv_packCmd ..⟩
theorem grestore : Statement .grestore := ⟨fieldOp_packCmd .., fieldRsv_packCmd ..⟩
theorem newframe : Statement .newframe := ⟨fieldOp_packCmd .., fieldRsv_packCmd ..⟩

end Sys2Proof.Laws.Row
end

