-- ==== Sys2Proof/Tests/Slice0.lean ====
section
/-!
SUPPORT. Tests and witnesses. Expected results are those of spec/ (30_encoding.md, 41_pixel_transforms.md R135 and
R136, 95_test_vectors.md), or follow from its rules by hand. Each witness shows that an obligation's hypotheses are
met together.
-/

namespace Sys2Proof.Tests

open Sys2Proof Sys2Proof.Machine

/-! ### Small states -/

/-- A memory with the given elements, in offset order. -/
def memoryOf (ps : List Pixel) : Memory := Memory.rewrite [] ps.length (fun o => ps.getD o 0)

/-- The first `n` elements of a memory, in offset order. -/
def elements (n : Nat) (m : Memory) : List Pixel := (List.range n).map (Memory.get m)

/-- After reset with a geometry and a frame, capture disabled. -/
def frame (w h s : Nat) (ps : List Pixel) : State := State.launch ⟨w, h, s⟩ (memoryOf ps) [] false

/-- The 3 x 3 frame of L2.4. -/
def nine : State :=
  frame 3 3 3 [0x1111, 0x2222, 0x3333, 0x4444, 0x5555, 0x6666, 0x7777, 0x8888, 0x9999]

/-- A padded frame, W=3, H=2, S=4 (P1, after its writes). -/
def padded : State :=
  frame 3 2 4 [0xF800, 0x07E0, 0x001F, 0xDEAD, 0xFFFF, 0x0000, 0x0000, 0xDEAD]

/-- The one-pixel frame of L2.5. -/
def dot : State := frame 1 1 1 [0xF800]

/-- `dot` after row 2 of L2.5: converted, the red pixel in the backup. -/
def dotGray : State :=
  { State.launch ⟨1, 1, 1⟩ (memoryOf [0x4A49]) (memoryOf [0xF800]) false with tstate := .grayscale }

/-- Both memories of `n` elements and the response a command leaves. -/
def seen (n : Nat) (r : Host.Outcome State Fault Refusal) :
    Option (List Pixel × List Pixel × Option RspWord) :=
  match r with
  | .next s => some (elements n s.fb, elements n s.bb, s.rsp)
  | .fault _ => none
  | .refused _ => none

/-- The response a command leaves. -/
def answered (r : Host.Outcome State Fault Refusal) : Option RspWord :=
  match r with
  | .next s => s.rsp
  | .fault _ => none
  | .refused _ => none

/-- The first `n` elements of the frame a command leaves. -/
def frameAfter (n : Nat) (r : Host.Outcome State Fault Refusal) : Option (List Pixel) :=
  match r with
  | .next s => some (elements n s.fb)
  | .fault _ => none
  | .refused _ => none

/-- The state with a word accepted. -/
def accepted (w : CmdWord) (s : State) : State := { s with busy := true, cmd := w }

/-! ### Well-formedness: an ill-formed term for each check (R8, R92) -/

theorem test_instr_wf_limits : (Instr.write 65535 65535 0xFFFF).wf = true ∧ Instr.fliph.wf = true := by decide
theorem test_instr_wf_addr : (Instr.addr 65536 0).wf = false ∧ (Instr.addr 0 65536).wf = false := by decide
theorem test_instr_wf_read : (Instr.read 65536 0).wf = false ∧ (Instr.read 0 65536).wf = false := by decide
theorem test_instr_wf_write :
    (Instr.write 65536 0 0).wf = false ∧ (Instr.write 0 65536 0).wf = false := by decide
theorem test_config_wf_documented : Config.documented.wf = true ∧ (Config.mk 1 1 1).wf = true := by decide
theorem test_config_wf_width_zero : (Config.mk 0 1 1).wf = false := by decide
theorem test_config_wf_height_zero : (Config.mk 1 0 1).wf = false := by decide
theorem test_config_wf_stride_below_width : (Config.mk 320 240 319).wf = false := by decide
theorem test_config_wf_width_too_big : (Config.mk 65537 1 65537).wf = false := by decide
theorem test_config_wf_height_too_big : (Config.mk 1 65537 1).wf = false := by decide
theorem test_config_wf_frame_too_big :
    (Config.mk 65536 65536 65536).wf = true ∧ (Config.mk 65536 65536 65537).wf = false := by decide
theorem test_asm_wf :
    (AsmLine.addr 65536 0).wf = false ∧ (AsmLine.addr 0 65536).wf = false ∧
    (AsmLine.read 65536 0).wf = false ∧ (AsmLine.read 0 65536).wf = false ∧
    (AsmLine.write 65536 0 0).wf = false ∧ (AsmLine.write 0 65536 0).wf = false ∧
    (AsmLine.write 0 0 65536).wf = false ∧ (AsmLine.write 65535 65535 65535).wf = true := by decide

/-! ### Decoding: a word of every command, written out from R80 and R86 -/

theorem test_decode_status : decode 0x0000000000000000 = .ok .status := by decide
theorem test_decode_addr : decode 0x100000EF013F0000 = .ok (.addr 319 239) := by decide
theorem test_decode_read : decode 0x2000000100000000 = .ok (.read 0 1) := by decide
theorem test_decode_write : decode 0x30000002000507E0 = .ok (.write 5 2 0x07E0) := by decide
theorem test_decode_fliph : decode 0x4000FFFFFFFFFFFF = .ok .fliph := by decide
theorem test_decode_mirrv : decode 0x5000000000000000 = .ok .mirrv := by decide
theorem test_decode_invert : decode 0x6000000000000000 = .ok .invert := by decide
theorem test_decode_gray : decode 0x7000000000000000 = .ok .gray := by decide
theorem test_decode_gtoggle : decode 0x8000000000000000 = .ok .gtoggle := by decide
theorem test_decode_gapply : decode 0x9000000000000000 = .ok .gapply := by decide
theorem test_decode_grestore : decode 0xA000000000000000 = .ok .grestore := by decide
theorem test_decode_newframe : decode 0xB000000000000000 = .ok .newframe := by decide
theorem test_decode_reserved_opcodes :
    decode 0xC000000000000000 = .error .reservedOpcode ∧ decode 0xD000000000000000 = .error .reservedOpcode ∧
    decode 0xE000000000000000 = .error .reservedOpcode ∧ decode 0xF000000000000000 = .error .reservedOpcode := by
  decide
theorem test_decode_reserved_bits :
    decode 0x4001000000000000 = .error .reservedBits ∧ decode 0x0800000000000000 = .error .reservedBits ∧
    decode 0x1001000001400000 = .error .reservedBits ∧ decode 0xFFFFFFFFFFFFFFFF = .error .reservedBits := by decide
theorem test_encode_addr : encode (.addr 319 239) = 0x100000EF013F0000 := by decide
theorem test_encode_write : encode (.write 319 239 0xABCD) = 0x300000EF013FABCD := by decide
theorem test_table_word :
    decodeTableWord 64 0x2000000100020000 = some (.read 2 1) ∧ decodeTableWord 64 0x4001000000000000 = none ∧
    decodeTableWord 65 0 = none := by decide

/-! ### Assembly text (R92, R94) -/

theorem test_asm_text_write :
    assembleText "WRITE 319, 239, 0xABCD ; last pixel".toList = .ok [0x300000EF013FABCD] := by decide
theorem test_asm_text_rot180 :
    assembleText "ROT180".toList = .ok [0x4000000000000000, 0x5000000000000000] := by decide
theorem test_asm_text_comment : assembleText "; nothing here".toList = .ok [] := by decide
theorem test_asm_text_too_big : assembleText "ADDR 65536, 0".toList = .error .operandTooBig := by decide
theorem test_asm_program :
    assemble [.nop, .read 0 1] = .ok [0x0000000000000000, 0x2000000100000000] := by decide

/-! ### Pixels (L2.3, R135, R136) -/

theorem test_gray_vectors :
    gray 0xFFFF = 0xFFFF ∧ gray 0xF800 = 0x4A49 ∧ gray 0x07E0 = 0x9492 ∧ gray 0x001F = 0x18E3 ∧
    gray 0x8410 = 0x7BEF ∧ gray 0x1234 = 0x39E7 ∧ gray 0xFFDF = 0xF7DE ∧ gray 0x0841 = 0x0020 := by decide
theorem test_inv_vectors :
    inv 0x0000 = 0xFFFF ∧ inv 0xF800 = 0x07FF ∧ inv 0x1234 = 0xEDCB ∧ inv 0x8410 = 0x7BEF := by decide
theorem test_upscales :
    up5 16 = 131 ∧ up5 31 = 255 ∧ up5 9 = 74 ∧ up6 32 = 129 ∧ up6 17 = 68 ∧ up6 62 = 250 := by decide
theorem test_luma : luma 0xF800 = 76 ∧ luma 0x07E0 = 149 ∧ luma 0x1234 = 63 ∧ luma 0xFFDF = 252 := by decide

/-! ### Commands: L2.1, L2.2, L2.4, L2.5 -/

theorem test_addr_last : answered (exec (.addr 319 239) State.reset) = some 0x000000000001DF3F := by decide
theorem test_addr_padding : answered (exec (.addr 511 0) State.reset) = some 0x0000000100000000 := by decide
theorem test_read_padded : answered (exec (.read 2 0) padded) = some 0x000000000000001F := by decide
theorem test_read_row_end : answered (exec (.read 0 2) padded) = some 0x0000000100000000 := by decide
theorem test_write_padded :
    frameAfter 8 (exec (.write 1 1 0x1234) padded) =
      some [0xF800, 0x07E0, 0x001F, 0xDEAD, 0xFFFF, 0x1234, 0x0000, 0xDEAD] := by decide
theorem test_write_outside :
    seen 8 (exec (.write 3 0 0xFFFF) padded) =
      some ([0xF800, 0x07E0, 0x001F, 0xDEAD, 0xFFFF, 0x0000, 0x0000, 0xDEAD], [0, 0, 0, 0, 0, 0, 0, 0],
        some 0x0000000100000000) := by decide
theorem test_fliph :
    frameAfter 9 (exec .fliph nine) =
      some [0x3333, 0x2222, 0x1111, 0x6666, 0x5555, 0x4444, 0x9999, 0x8888, 0x7777] := by decide
theorem test_fliph_padding :
    frameAfter 5 (exec .fliph (frame 4 1 5 [1, 2, 3, 4, 0xDEAD])) = some [4, 3, 2, 1, 0xDEAD] := by decide
theorem test_mirrv :
    frameAfter 9 (exec .mirrv nine) =
      some [0x7777, 0x8888, 0x9999, 0x4444, 0x5555, 0x6666, 0x1111, 0x2222, 0x3333] := by decide
theorem test_mirrv_padding :
    frameAfter 6 (exec .mirrv (frame 1 3 2 [0x000A, 0xDEAD, 0x000B, 0xBEEF, 0x000C, 0xCAFE])) =
      some [0x000C, 0xDEAD, 0x000B, 0xBEEF, 0x000A, 0xCAFE] := by decide
theorem test_invert :
    frameAfter 9 (exec .invert nine) =
      some [0xEEEE, 0xDDDD, 0xCCCC, 0xBBBB, 0xAAAA, 0x9999, 0x8888, 0x7777, 0x6666] := by decide
theorem test_gray :
    frameAfter 9 (exec .gray nine) =
      some [0x2124, 0x3186, 0x5ACB, 0x632C, 0x8C71, 0x94D2, 0xBE17, 0x39C7, 0x5B0B] := by decide
theorem test_gtoggle_apply :
    seen 1 (exec .gtoggle dot) = some ([0x4A49], [0xF800], some 0x0000001000000000) := by decide
theorem test_gtoggle_restore :
    seen 1 (exec .gtoggle dotGray) = some ([0xF800], [0xF800], some 0x0000000000000000) := by decide
theorem test_gapply_padding :
    seen 3 (exec .gapply (frame 2 1 3 [0x8410, 0x0841, 0xDEAD])) =
      some ([0x7BEF, 0x0020, 0xDEAD], [0x8410, 0x0841, 0], some 0x0000001000000000) := by decide
theorem test_gapply_misuse :
    seen 1 (exec .gapply dotGray) = some ([0x4A49], [0xF800], some 0x0000001300000000) := by decide
theorem test_grestore :
    seen 1 (exec .grestore dotGray) = some ([0xF800], [0xF800], some 0x0000000000000000) := by decide
theorem test_grestore_misuse :
    seen 1 (exec .grestore dot) = some ([0xF800], [0], some 0x0000000300000000) := by decide
theorem test_newframe :
    seen 1 (exec .newframe dotGray) = some ([0x4A49], [0xF800], some 0x0000000000000000) := by decide
theorem test_status : answered (exec .status dotGray) = some 0x0000001000000000 := by decide

/-- P2, rows 1 to 6: the work done in Grayscale is lost when the backup comes back. -/
theorem test_round_trip :
    seen 4 (execAll [.gapply, .fliph, .write 1 1 0x1234, .grestore] (frame 2 2 2 [0xF800, 0x07E0, 0x001F, 0xFFFF])) =
      some ([0xF800, 0x07E0, 0x001F, 0xFFFF], [0xF800, 0x07E0, 0x001F, 0xFFFF], some 0) := by decide

/-! ### Words and steps: L2.6, L2.7 -/

theorem test_run_illegal_first :
    answered (runCommand (accepted 0x1001000001400000 nine)) = some 0x0000000400000000 ∧
    answered (runCommand (accepted 0x9001000000000000 dotGray)) = some 0x0000001400000000 := by decide
theorem test_run_not_flipped :
    frameAfter 9 (runCommand (accepted 0x4001000000000000 nine)) = some (elements 9 nine.fb) := by decide
theorem test_step_from_reset :
    answered (step (State.reset.withFetchWord 64 0x100000EF013F0000)) = some 0x000000000001DF3F := by decide
theorem test_reset_idles : step State.reset = .next State.reset := rfl

/-- R220: raising and releasing the line between two edges resets nothing; an edge with it high resets the block and
drops the command. -/
theorem test_reset_is_synchronous :
    (∃ t, step { accepted 0x6000000000000000 dotGray with moves := [.setRst true] } = .next t ∧ t.busy = true ∧
      t.tstate = .grayscale ∧ t.cmdReady = false ∧ t.rspValid = false) ∧
    (∃ t, step { accepted 0x6000000000000000 dotGray with rst := true, moves := [.go] } = .next t ∧ t.busy = false ∧
      t.tstate = .color ∧ t.rsp = none ∧ t.rst = true) :=
  ⟨⟨_, rfl, rfl, rfl, rfl, rfl⟩, ⟨_, rfl, rfl, rfl, rfl, rfl⟩⟩

/-- R52, R53: the multiplexer passes the selected source; the last element exists and the next does not. -/
theorem test_frame_port :
    (framePort .hostAccess 8 padded.fb (readRequest 7)).rdata = some 0xDEAD ∧
    (framePort .sequencer 8 padded.fb (readRequest 8)).rdata = none ∧
    portMux .hostAccess (readRequest 1) noRequest = readRequest 1 ∧
    portMux .sequencer noRequest (writeRequest 1 2) = writeRequest 1 2 := by decide

/-- The swap loops of R138 on an odd width with padding reach the closed form. -/
theorem test_swap_loops :
    Memory.swapAll padded.fb (flipSwaps padded.cfg) = flipped padded.cfg padded.fb ∧
    Memory.swapAll padded.fb (mirrorSwaps padded.cfg) = mirrored padded.cfg padded.fb := by decide

/-! ### Witnesses: encoding and addressing -/

theorem witness_decode_undoes_encode : (Instr.write 65535 65535 0xFFFF).wf = true := by decide
theorem witness_encode_keeps_the_fields_read : decode 0x4000FFFFFFFFFFFF = .ok .fliph := by decide
theorem witness_unused_fields_are_ignored :
    decode 0x4000FFFFFFFFFFFF = .ok .fliph ∧
    decode 0x4000000000000000 = .ok .fliph ∧ decode 0x4001FFFFFFFFFFFF ≠ .ok .fliph := by decide
theorem witness_decoding_table_reserved_bits : fieldRsv 0x4001000000000000 ≠ 0 := by decide
theorem witness_decoding_table_last_command :
    fieldRsv 0xB000FFFFFFFFFFFF = 0 ∧ fieldOp 0xB000FFFFFFFFFFFF = 0xB := by decide
theorem witness_decoding_table_first_reserved :
    fieldRsv 0xC000000000000000 = 0 ∧ 0xC ≤ (fieldOp 0xC000000000000000).toNat ∧
    decode 0xC000000000000000 = .error .reservedOpcode ∧
    (accepted 0xC000000000000000 nine).cmd = 0xC000000000000000 := by decide
theorem witness_assembler_formula : (65535 : Nat) < 65536 := by decide
theorem witness_offsets :
    Config.documented.wf ∧ 319 < Config.documented.W ∧ 239 < Config.documented.H ∧
    Config.documented.off 319 239 = 122687 ∧ Config.documented.S = 2 ^ 9 := by decide
theorem witness_offsets_successors :
    Config.documented.wf ∧ 318 + 1 < Config.documented.W ∧ 238 < Config.documented.H := by decide
theorem witness_offsets_logical_or_padding :
    Config.documented.wf ∧ 319 < Config.documented.depth ∧ 320 < Config.documented.depth ∧
    Config.documented.isLogical 319 = true ∧ Config.documented.isLogical 320 = false := by decide

/-! ### Witnesses: commands -/

/-- AddrAnswersTheOffset, ReadAnswersThePixel, WriteStoresThePixel: the last pixel of a padded frame. -/
theorem witness_addr_read_write :
    padded.cfg.wf ∧ 2 < padded.cfg.W ∧ 1 < padded.cfg.H ∧
    answered (exec (.addr 2 1) padded) = some 6 ∧ answered (exec (.read 2 1) padded) = some 0 ∧
    answered (exec (.write 2 1 7) padded) = some 0 := by decide
/-- OutOfBoundsRaisesInvalidCoordinate: `x = W` alone, and `y = H` alone. -/
theorem witness_out_of_bounds :
    (padded.cfg.W ≤ 3 ∨ padded.cfg.H ≤ 0) ∧ (padded.cfg.W ≤ 0 ∨ padded.cfg.H ≤ 2) := by decide
theorem witness_read_after_write :
    padded.cfg.wf ∧ 2 < padded.cfg.W ∧ 1 < padded.cfg.H ∧ 0 < padded.cfg.W ∧ 0 < padded.cfg.H := by decide
/-- FliphReflectsEveryRow, MirrvReflectsEveryColumn, InvertComplementsEveryPixel, GrayConvertsEveryPixel,
FrameCommandLaws, PseudoInstructionsExpand, SwapLoopsReachTheClosedForms, OperationCounts,
EveryWordGetsALegalResponse. -/
theorem witness_frame_commands :
    padded.cfg.wf ∧ padded.fb.wf ∧ 2 < padded.cfg.W ∧ 1 < padded.cfg.H := by decide
theorem witness_luma_monotone : 30 ≤ 31 ∧ 62 ≤ 63 ∧ lumaOf 30 62 30 ≤ lumaOf 31 63 31 ∧ luma 0 = luma 1 := by decide
theorem witness_pixel_fields : (31 : Nat) ≤ 31 ∧ (63 : Nat) ≤ 63 ∧ pack 31 63 31 = 0xFFFF := by decide
theorem witness_gray_darkens : (0xFFFE : Pixel) ≠ 0xFFFF := by decide
/-- GtoggleFollowsTstate, GapplyAndGrestoreMakeTheirTransitions, WrongDirectionIsStateMisuse: the Color clause. -/
theorem witness_toggle_color : dot.cfg.wf ∧ dot.tstate = .color := by decide
/-- The same three: the Grayscale clause. -/
theorem witness_toggle_grayscale : dotGray.cfg.wf ∧ dotGray.tstate = .grayscale := by decide
theorem witness_gtoggle_response :
    ∃ t r, exec .gtoggle dot = .next t ∧ t.rsp = some r := ⟨_, _, rfl, rfl⟩
theorem witness_transition_table : ∃ t, exec .gapply dot = .next t := ⟨_, rfl⟩
theorem witness_tstate_changes_by_command :
    ∃ t, step (accepted 0x8000000000000000 dot) = .next t ∧ t.tstate ≠ (accepted 0x8000000000000000 dot).tstate :=
  ⟨_, rfl, by decide⟩
theorem witness_tstate_changes_by_reset :
    ∃ t, step { dotGray with rst := true, moves := [.go] } = .next t ∧ t.tstate ≠ .grayscale := ⟨_, rfl, by decide⟩
theorem witness_backup_written :
    ∃ t, dot.cfg.wf ∧ exec .gapply dot = .next t ∧ t.bb ≠ dot.bb ∧ dot.cfg.isLogical 1 = false :=
  ⟨_, by decide, rfl, by decide, by decide⟩
theorem witness_stale_backup : ∃ t, dot.tstate = .color ∧ exec .gapply dot = .next t := ⟨_, rfl, rfl⟩
theorem witness_backup_holds :
    ∃ t, step (accepted 0x6000000000000000 dotGray) = .next t ∧ dotGray.tstate = .grayscale ∧
      t.tstate = .grayscale := ⟨_, rfl, rfl, by decide⟩
theorem witness_round_trip :
    dot.cfg.wf ∧ dot.tstate = .color ∧
    ∀ i ∈ [Instr.invert, .write 0 0 0x1234, .gray], movesToggle i = false := by decide

/-! ### Witnesses: responses and errors -/

/-- ErrorsChangeNothing, and the error clause of ResultPerCommand. -/
theorem witness_error : ∃ t r, (accepted 0xC000000000000000 dotGray).cfg.wf ∧
    runCommand (accepted 0xC000000000000000 dotGray) = .next t ∧ t.rsp = some r ∧ rspErr r ≠ 0 :=
  ⟨_, _, by decide, rfl, rfl, by decide⟩
/-- ResultPerCommand, success. -/
theorem witness_result :
    ∃ t r, padded.cfg.wf ∧ runCommand (accepted 0x2000000000020000 padded) = .next t ∧ t.rsp = some r ∧
      rspErr r = 0 ∧ rspResult r = 0x001F :=
  ⟨_, _, by decide, rfl, rfl, by decide, by decide⟩
theorem witness_illegal_words :
    fieldRsv (accepted 0x0800000000000000 dot).cmd ≠ 0 ∧
    0xC ≤ (fieldOp (accepted 0xC000000000000000 dot).cmd).toNat := by decide

/-! ### Witnesses: the system's steps -/

/-- `dot` with capture enabled. -/
def filming : State := { dot with captureEn := true, captureOverlap := true }

/-- `dot` with one word for the host to send. -/
def loaded : State := dot.withProgram [0x6000000000000000]

/-- `dot` with a pending response that the host does not take. -/
def unanswered : State := { dot with busy := true, rsp := some 0, rspReady := false }

theorem witness_step_runs_clear :
    dot.cfg.wf ∧ { accepted 0x6000000000000000 dot with moves := [.go, .setReady true] }.executing ∧
    { accepted 0x6000000000000000 dot with moves := [.go, .setReady true] }.atEdge [.setReady true] ∧
    (accepted 0x6000000000000000 dot).captureClear ∧
    decode (accepted 0x6000000000000000 dot).cmd = .ok .invert := by decide
theorem witness_step_runs_overlapped :
    filming.cfg.wf ∧ (accepted 0x6000000000000000 filming).executing ∧
    (accepted 0x6000000000000000 filming).atEdge [] ∧ ¬ (accepted 0x6000000000000000 filming).captureClear ∧
    decode (accepted 0x6000000000000000 filming).cmd = .ok .invert := by decide
theorem witness_accept_clear :
    loaded.cfg.wf ∧ { loaded with moves := [.go, .setReady false] }.offered 0x6000000000000000 ∧
    { loaded with moves := [.go, .setReady false] }.atEdge [.setReady false] ∧ loaded.captureEn = false := by decide
theorem witness_accept_filming :
    (filming.withProgram [0]).cfg.wf ∧ (filming.withProgram [0]).offered 0 ∧ (filming.withProgram [0]).atEdge [] ∧
    (filming.withProgram [0]).captureEn = true := by decide
theorem witness_response_taken :
    { dot with busy := true, rsp := some 0 }.cfg.wf ∧ { dot with busy := true, rsp := some 0 }.rst = false ∧
    { dot with busy := true, rsp := some 0 }.rspReady = true ∧ { dot with busy := true, rsp := some 0 }.atEdge [] := by
  decide
/-- The first clause of ResponseIsHeldUntilTaken: a step that keeps the response, and one in which reset drops it. -/
theorem witness_response_step :
    (∃ t, step { unanswered with moves := [.setCapture false] } = .next t ∧ t.rsp = some 0) ∧
    (∃ t, step { unanswered with rst := true } = .next t ∧ t.rsp = none) := ⟨⟨_, rfl, rfl⟩, ⟨_, rfl, rfl⟩⟩
theorem witness_response_held :
    unanswered.cfg.wf ∧ unanswered.rst = false ∧ unanswered.busy = true ∧ unanswered.rsp = some 0 ∧
    unanswered.rspReady = false ∧ { unanswered with moves := [.go, .setReady true] }.moves = .go :: [.setReady true] := by
  decide
theorem witness_stops_untaken :
    unanswered.cfg.wf ∧ unanswered.moves = [] ∧ unanswered.rst = false ∧ unanswered.rsp = some 0 ∧
    unanswered.rspReady = false := by decide
theorem witness_stops_idle :
    dot.cfg.wf ∧ dot.atEdge [] ∧ dot.rst = false ∧ dot.busy = false ∧ dot.rsp = none ∧
    dot.prog.length ≤ dot.k := by decide
/-- StopsOnlyOnAnUntakenResponse: a host with a command left that does not offer it. -/
theorem witness_stops_not_offered :
    { loaded with cmdValid := false, moves := [.go] }.cfg.wf ∧
    { loaded with cmdValid := false, moves := [.go] }.atEdge [] ∧
    { loaded with cmdValid := false }.rst = false ∧ { loaded with cmdValid := false }.busy = false ∧
    { loaded with cmdValid := false }.rsp = none ∧ { loaded with cmdValid := false }.cmdValid = false := by decide
/-- StopsOnlyOnAnUntakenResponse, the converse: a step that answers no next state. -/
theorem witness_stops_only :
    unanswered.cfg.wf ∧ unanswered.moves = [] ∧ ∀ t, step unanswered ≠ .next t := by
  have h : step unanswered = .fault .responseNeverTaken := rfl
  exact ⟨by decide, rfl, fun t e => by rw [h] at e; cases e⟩
theorem witness_command_cycle :
    loaded.cfg.wf ∧ loaded.idleReady ∧ loaded.captureClear ∧ loaded.prog[loaded.k]? = some 0x6000000000000000 := by
  decide
theorem witness_reset_idle :
    { dotGray with rst := true }.cfg.wf ∧ { dotGray with rst := true }.busy = false ∧
    { dotGray with rst := true, moves := [.go, .setRst false] }.atEdge [.setRst false] ∧
    { dotGray with rst := true }.atEdge [] := by decide
theorem witness_reset_mid_command :
    padded.cfg.wf ∧ { accepted 0x9000000000000000 padded with rst := true }.busy = true ∧
    { accepted 0x9000000000000000 padded with rst := true }.atEdge [] ∧
    wordMayWrite padded.cfg 0x9000000000000000 2 = true ∧ wordMayWrite padded.cfg 0x9000000000000000 3 = false ∧
    padded.cfg.isLogical 3 = false ∧ 7 < padded.cfg.depth := by decide
theorem witness_reset_holds :
    { dotGray with rst := true }.cfg.wf ∧ { dotGray with rst := true, moves := [.go] }.atEdge [] ∧
    { dot with rst := true }.atReset ∧ { dot with rst := true }.cmd = 0 ∧ { dot with rst := true }.moves = [] := by
  decide
/-- ResetHoldsTheBlock: the line is released, and a camera write meanwhile. -/
theorem witness_reset_released :
    (∃ t, step { dot with rst := true, moves := [.setRst false] } = .next t ∧ t.rst = false) ∧
    (∃ t, step { filming with rst := true, moves := [.camera 0 0x1234] } = .next t ∧ t.fb ≠ filming.fb) :=
  ⟨⟨_, rfl, rfl⟩, ⟨_, rfl, by decide⟩⟩
/-- HostMovesSetOneInput: a move of each kind, and both forms of enabling capture. -/
theorem witness_host_moves :
    dot.cfg.wf ∧ { dot with moves := [.setValid false] }.moves = .setValid false :: [] ∧
    { dot with moves := [.setReady false] }.moves = .setReady false :: [] ∧
    { dot with moves := [.setRst true] }.moves = .setRst true :: [] ∧
    { dot with moves := [.setCapture true] }.moves = .setCapture true :: [] ∧ dot.busy = false ∧
    { unanswered with moves := [.setCapture true] }.moves = .setCapture true :: [] ∧ unanswered.busy = true ∧
    0 < unanswered.cfg.depth := by decide
/-- CameraWritesOneElement: element 0 is the last that exists, element 1 the first that does not. -/
theorem witness_camera_last_element :
    filming.cfg.wf ∧ filming.captureEn = true ∧ 0 < filming.cfg.depth ∧ filming.cfg.depth ≤ 1 := by decide
theorem witness_camera_disabled :
    { dot with moves := [.camera 0 0x1234] }.moves = .camera 0 0x1234 :: [] ∧ dot.captureEn = false := by decide
/-- GeometryAndProgramAreFixed: a step that accepts a command. -/
theorem witness_geometry_accept :
    ∃ t, step loaded = .next t ∧ loaded.busy = false ∧ t.busy = true := ⟨_, rfl, rfl, rfl⟩
theorem witness_ill_formed : ¬ (State.launch ⟨4, 1, 3⟩ [] [] false).cfg.wf := by decide
theorem witness_launch :
    padded.cfg.wf ∧ padded.fb.wf ∧ padded.fb.below padded.cfg.depth ∧ Memory.wf [] ∧
    Memory.below [] padded.cfg.depth := by decide

/-- A launch from a well-formed configuration meets the invariant, whatever moves the environment is to make and
whatever program the host is to send. -/
theorem invariant_of_launch (m : Memory) (p : List CmdWord) (ms : List Move) (c : Config) (b : Bool) (hc : c.wf)
    (hm : m.wf) (hb : m.below c.depth) : SystemInv { (State.launch c m [] b).withProgram p with moves := ms } where
  cfg_wf := hc
  fb_wf := hm
  fb_below := hb
  bb_wf := (by decide : Memory.wf [])
  bb_below := fun _ h => absurd h List.not_mem_nil
  rsp_busy := fun h => by simp [State.launch, State.withProgram] at h
  overlap_marked := fun _ h => by simp [State.launch, State.withProgram] at h
  rsp_legal := fun _ h => by simp [State.launch, State.withProgram] at h
  index_le := Nat.zero_le _

/-- The invariant holds in a state from which a step is made: a command is accepted. -/
theorem witness_every_step :
    ∃ t, SystemInv { loaded with moves := [.go] } ∧ step { loaded with moves := [.go] } = .next t ∧ t.busy = true :=
  ⟨_, invariant_of_launch _ _ _ _ _ (by decide) (by decide) (by decide), rfl, rfl⟩

/-- The same where the accept step sets the overlap mark (L2.7, row 1). -/
theorem witness_overlap_mark_set :
    ∃ s t, SystemInv s ∧ step s = .next t ∧ t.captureEn = true ∧ t.busy = true ∧ s.captureOverlap = false ∧
      t.captureOverlap = true :=
  ⟨{ (State.launch ⟨1, 1, 1⟩ [] [] true).withProgram [0x6000000000000000] with moves := [] }, _,
    invariant_of_launch _ _ _ _ _ (by decide) (by decide) (by decide), rfl, rfl, rfl, rfl, rfl⟩

/-- The mark stays when the response is taken and capture is disabled. -/
theorem witness_overlap_mark_kept :
    ∃ t, SystemInv { filming with moves := [.setCapture false] } ∧
      step { filming with moves := [.setCapture false] } = .next t ∧ filming.captureOverlap = true ∧
      t.captureEn = false :=
  ⟨_,
    { cfg_wf := by decide, fb_wf := by decide, fb_below := by decide, bb_wf := by decide, bb_below := by decide,
      rsp_busy := by decide, overlap_marked := by decide,
      rsp_legal := fun _ h => by simp [filming, dot, frame, State.launch] at h, index_le := by decide },
    rfl, rfl, rfl⟩

end Sys2Proof.Tests
end

section
/-!
PROOFS. The channel fields and `pack` as arithmetic on the number a pixel is (00_scope.md R15).
-/

namespace Sys2Proof.Machine

/-! The fields as digits of the pixel's number. -/

theorem red_eq_toNat_div (p : Pixel) : red p = p.toNat / 2048 := by
  rw [red, BitVec.extractLsb'_toNat, Nat.shiftRight_eq_div_pow]
  have := p.isLt
  omega

theorem green_eq_toNat_div_mod (p : Pixel) : green p = p.toNat / 32 % 64 := by
  rw [green, BitVec.extractLsb'_toNat, Nat.shiftRight_eq_div_pow]

theorem blue_eq_toNat_mod (p : Pixel) : blue p = p.toNat % 32 := by
  rw [blue, BitVec.extractLsb'_toNat, Nat.shiftRight_zero]

theorem red_le (p : Pixel) : red p ≤ 31 := Nat.le_of_lt_succ (BitVec.isLt _)

theorem green_le (p : Pixel) : green p ≤ 63 := Nat.le_of_lt_succ (BitVec.isLt _)

theorem blue_le (p : Pixel) : blue p ≤ 31 := Nat.le_of_lt_succ (BitVec.isLt _)

theorem fields_sum_eq_toNat (p : Pixel) : red p * 2048 + green p * 32 + blue p = p.toNat := by
  rw [red_eq_toNat_div, green_eq_toNat_div_mod, blue_eq_toNat_mod]
  omega

/-! `pack` as a number, and what its fields read. -/

theorem pack_eq_pack_mod (r g b : Nat) : pack r g b = pack (r % 32) (g % 64) (b % 32) := by
  have low (w n : Nat) : BitVec.ofNat w n = BitVec.ofNat w (n % 2 ^ w) :=
    BitVec.eq_of_toNat_eq (by simp)
  rw [pack, low 5 r, low 6 g, low 5 b]
  rfl

theorem toNat_pack {r g b : Nat} (hr : r ≤ 31) (hg : g ≤ 63) (hb : b ≤ 31) :
    (pack r g b).toNat = r * 2048 + g * 32 + b := by
  have hr' : r % 2 ^ 5 = r := by omega
  have hg' : g % 2 ^ 6 = g := by omega
  have hb' : b % 2 ^ 5 = b := by omega
  have hgb : g <<< 5 ||| b = g * 32 + b := by
    rw [← Nat.shiftLeft_add_eq_or_of_lt (by omega), Nat.shiftLeft_eq]
  rw [pack, BitVec.toNat_append, BitVec.toNat_append, BitVec.toNat_ofNat, BitVec.toNat_ofNat,
    BitVec.toNat_ofNat, hr', hg', hb', hgb, ← Nat.shiftLeft_add_eq_or_of_lt (by omega), Nat.shiftLeft_eq]
  omega

@[simp] theorem pack_fields (p : Pixel) : pack (red p) (green p) (blue p) = p :=
  BitVec.eq_of_toNat_eq <|
    (toNat_pack (red_le p) (green_le p) (blue_le p)).trans (fields_sum_eq_toNat p)

theorem red_pack {r g b : Nat} (hr : r ≤ 31) (hg : g ≤ 63) (hb : b ≤ 31) : red (pack r g b) = r := by
  rw [red_eq_toNat_div, toNat_pack hr hg hb]
  omega

theorem green_pack {r g b : Nat} (hr : r ≤ 31) (hg : g ≤ 63) (hb : b ≤ 31) : green (pack r g b) = g := by
  rw [green_eq_toNat_div_mod, toNat_pack hr hg hb]
  omega

theorem blue_pack {r g b : Nat} (hr : r ≤ 31) (hg : g ≤ 63) (hb : b ≤ 31) : blue (pack r g b) = b := by
  rw [blue_eq_toNat_mod, toNat_pack hr hg hb]
  omega

/-- Settles O23: a pixel's number is written by its fields with the weights 2048, 32 and 1, and `pack` builds it
from them. -/
theorem pixelFieldsPackAndUnpack : Obligations.PixelFieldsPackAndUnpack :=
  ⟨fun p => ⟨red_le p, green_le p, blue_le p, pack_fields p⟩,
    fun _ _ _ hr hg hb => ⟨toNat_pack hr hg hb, red_pack hr hg hb, green_pack hr hg hb, blue_pack hr hg hb⟩,
    pack_eq_pack_mod⟩

end Sys2Proof.Machine
end

section
/-!
PROOFS. Decoding as a condition on the fields of a word, and the words that agree in the fields a command reads
(spec/30_encoding.md R80 to R89).
-/

namespace Sys2Proof

open Machine

/-- The command with the operands that stand in a word's fields, by the table of R85. -/
def Instr.withFields (i : Instr) (w : CmdWord) : Instr :=
  match i with
  | .addr _ _ => .addr (fieldX w).toNat (fieldY w).toNat
  | .read _ _ => .read (fieldX w).toNat (fieldY w).toNat
  | .write _ _ _ => .write (fieldX w).toNat (fieldY w).toNat (fieldData w)
  | i => i

theorem Instr.opcode_le (i : Instr) : i.opcode ≤ 0xB := by
  cases i <;> simp [Instr.opcode]

/-- A word with clear reserved bits decodes to a command exactly when it has that command's opcode and operands. -/
theorem decodeOp_eq_ok_iff (w : CmdWord) (i : Instr) :
    decodeOp w = .ok i ↔ (fieldOp w).toNat = i.opcode ∧ i.withFields w = i := by
  constructor
  · intro h
    unfold decodeOp at h
    split at h <;> cases h <;> exact ⟨‹_›, rfl⟩
  · rintro ⟨hop, hargs⟩
    rw [← hargs]
    cases i <;> simp only [decodeOp, hop, Instr.opcode, Instr.withFields]

/-- The command a word stands for, by its fields (R82, R86, R89). -/
theorem decode_eq_ok_iff (w : CmdWord) (i : Instr) :
    decode w = .ok i ↔ fieldRsv w = 0 ∧ (fieldOp w).toNat = i.opcode ∧ i.withFields w = i := by
  rw [← decodeOp_eq_ok_iff, decode]
  split
  · exact (and_iff_right ‹_›).symm
  · exact ⟨nofun, fun h => absurd h.1 ‹_›⟩

/-- A word is illegal when its fields fit no command. -/
theorem exists_decode_eq_error {w : CmdWord} (h : fieldRsv w ≠ 0 ∨ 0xC ≤ (fieldOp w).toNat) :
    ∃ e, decode w = .error e := by
  cases hd : decode w with
  | error e => exact ⟨e, rfl⟩
  | ok i =>
    obtain ⟨hrsv, hop, -⟩ := (decode_eq_ok_iff w i).mp hd
    have := i.opcode_le
    exact h.elim (absurd hrsv) (by omega)

/-- An illegal word raises IllegalCommand (R82, R87, R89). -/
theorem runCommand_of_decode_error {s : State} {e : Illegal} (h : decode s.cmd = .error e) :
    runCommand s = raise .illegalCommand s := by
  rw [runCommand, h]

/-- Settles O4: each row of the table has its opcode and the operands in the word's fields; no other word decodes. -/
theorem decodingFollowsTheTable : Obligations.DecodingFollowsTheTable := by
  intro w
  refine ⟨fun h => exists_decode_eq_error (.inl h), fun hrsv => ?_, ?_⟩
  · have row (i : Instr) (hargs : i.withFields w = i) (hop : fieldOp w = BitVec.ofNat 4 i.opcode) :
        decode w = .ok i := by
      have := i.opcode_le
      refine (decode_eq_ok_iff w i).mpr ⟨hrsv, ?_, hargs⟩
      rw [hop, BitVec.toNat_ofNat, Nat.mod_eq_of_lt (by omega)]
    exact ⟨row .status rfl, row (.addr _ _) rfl, row (.read _ _) rfl, row (.write _ _ _) rfl, row .fliph rfl,
      row .mirrv rfl, row .invert rfl, row .gray rfl, row .gtoggle rfl, row .gapply rfl, row .grestore rfl,
      row .newframe rfl, fun h => exists_decode_eq_error (.inr h)⟩
  · rintro e s he rfl
    exact runCommand_of_decode_error he

/-! ### Words that agree in some fields -/

/-- The five fields make up the whole word (R80). -/
theorem cmdWord_eq_iff (v w : CmdWord) :
    v = w ↔ fieldRsv v = fieldRsv w ∧ fieldOp v = fieldOp w ∧ fieldX v = fieldX w ∧ fieldY v = fieldY w ∧
      fieldData v = fieldData w := by
  refine ⟨by rintro rfl; exact ⟨rfl, rfl, rfl, rfl, rfl⟩, fun h => BitVec.eq_of_toNat_eq ?_⟩
  simp only [← BitVec.toNat_inj, fieldOp, fieldRsv, fieldY, fieldX, fieldData, BitVec.extractLsb'_toNat,
    Nat.shiftRight_eq_div_pow] at h
  have := v.isLt
  have := w.isLt
  omega

/-- Two words agree under a mask exactly when each field agrees under the mask's field. -/
theorem and_eq_and_iff_fields (v w m : CmdWord) :
    v &&& m = w &&& m ↔
      fieldRsv v &&& fieldRsv m = fieldRsv w &&& fieldRsv m ∧ fieldOp v &&& fieldOp m = fieldOp w &&& fieldOp m ∧
      fieldX v &&& fieldX m = fieldX w &&& fieldX m ∧ fieldY v &&& fieldY m = fieldY w &&& fieldY m ∧
      fieldData v &&& fieldData m = fieldData w &&& fieldData m := by
  rw [cmdWord_eq_iff]
  simp only [fieldOp, fieldRsv, fieldY, fieldX, fieldData, BitVec.extractLsb'_and]

/-- The mask of a command that reads no operand keeps the opcode and RSV. -/
theorem and_opcodeMask_eq_iff (v w : CmdWord) :
    v &&& 0xFFFF000000000000 = w &&& 0xFFFF000000000000 ↔ fieldRsv v = fieldRsv w ∧ fieldOp v = fieldOp w := by
  rw [and_eq_and_iff_fields, show fieldOp 0xFFFF000000000000 = BitVec.allOnes 4 from rfl,
    show fieldRsv 0xFFFF000000000000 = BitVec.allOnes 12 from rfl, show fieldY 0xFFFF000000000000 = 0#16 from rfl,
    show fieldX 0xFFFF000000000000 = 0#16 from rfl, show fieldData 0xFFFF000000000000 = 0#16 from rfl]
  simp only [BitVec.and_allOnes, BitVec.and_zero, and_true]

/-- The mask of a command that reads a pair keeps the coordinates too. -/
theorem and_pairMask_eq_iff (v w : CmdWord) :
    v &&& 0xFFFFFFFFFFFF0000 = w &&& 0xFFFFFFFFFFFF0000 ↔
      fieldRsv v = fieldRsv w ∧ fieldOp v = fieldOp w ∧ fieldX v = fieldX w ∧ fieldY v = fieldY w := by
  rw [and_eq_and_iff_fields, show fieldOp 0xFFFFFFFFFFFF0000 = BitVec.allOnes 4 from rfl,
    show fieldRsv 0xFFFFFFFFFFFF0000 = BitVec.allOnes 12 from rfl,
    show fieldY 0xFFFFFFFFFFFF0000 = BitVec.allOnes 16 from rfl,
    show fieldX 0xFFFFFFFFFFFF0000 = BitVec.allOnes 16 from rfl, show fieldData 0xFFFFFFFFFFFF0000 = 0#16 from rfl]
  simp only [BitVec.and_allOnes, BitVec.and_zero, and_true]

/-- The mask of WRITE keeps the whole word. -/
theorem and_wordMask_eq_iff (v w : CmdWord) :
    v &&& 0xFFFFFFFFFFFFFFFF = w &&& 0xFFFFFFFFFFFFFFFF ↔ fieldRsv v = fieldRsv w ∧ fieldOp v = fieldOp w ∧
      fieldX v = fieldX w ∧ fieldY v = fieldY w ∧ fieldData v = fieldData w := by
  rw [show (0xFFFFFFFFFFFFFFFF : CmdWord) = BitVec.allOnes 64 from rfl, BitVec.and_allOnes, BitVec.and_allOnes,
    cmdWord_eq_iff]

/-- The bits of RSV and of what a command reads are RSV, the opcode and the command's operand fields (R85). -/
theorem and_readMask_eq_iff (v w : CmdWord) (i : Instr) :
    v &&& (readMask i ||| reservedMask) = w &&& (readMask i ||| reservedMask) ↔
      fieldRsv v = fieldRsv w ∧ fieldOp v = fieldOp w ∧ i.withFields v = i.withFields w := by
  cases i with
  | addr x y | read x y =>
    rw [show readMask _ = 0xF000FFFFFFFF0000 from rfl,
      show 0xF000FFFFFFFF0000 ||| reservedMask = 0xFFFFFFFFFFFF0000 from rfl, and_pairMask_eq_iff]
    simp only [Instr.withFields, Instr.addr.injEq, Instr.read.injEq, BitVec.toNat_inj]
  | write x y d =>
    rw [show readMask _ = 0xF000FFFFFFFFFFFF from rfl,
      show 0xF000FFFFFFFFFFFF ||| reservedMask = 0xFFFFFFFFFFFFFFFF from rfl, and_wordMask_eq_iff]
    simp only [Instr.withFields, Instr.write.injEq, BitVec.toNat_inj]
  | _ =>
    rw [show readMask _ = 0xF000000000000000 from rfl,
      show 0xF000000000000000 ||| reservedMask = 0xFFFF000000000000 from rfl, and_opcodeMask_eq_iff]
    simp only [Instr.withFields, and_true]

/-- Settles O3: to decode to `i` and to agree with a word of `i` under its mask are the same condition on the fields. -/
theorem unusedFieldsAreIgnored : Obligations.UnusedFieldsAreIgnored := by
  intro w v i hw
  obtain ⟨hrsv, hop, hargs⟩ := (decode_eq_ok_iff w i).mp hw
  rw [decode_eq_ok_iff, and_readMask_eq_iff, hrsv, hargs, ← BitVec.toNat_inj (x := fieldOp v), hop]

/-! ### The assembler's formula (R93) -/

/-- The word of fields that fit their widths is the assembler's formula. -/
theorem toNat_packCmd_eq_enc {op x y : Nat} (hop : op < 16) (hx : x < 65536) (hy : y < 65536) (d : Pixel) :
    (packCmd op x y d).toNat = enc op x y d.toNat := by
  rw [Laws.toNat_packCmd, Nat.mod_eq_of_lt hop, Nat.mod_eq_of_lt hx, Nat.mod_eq_of_lt hy, enc]
  omega

/-- Settles O5: every command's word packs its opcode and operands, so it is the formula. -/
theorem encodeIsTheAssemblersFormula : Obligations.EncodeIsTheAssemblersFormula := by
  intro x y d hx hy
  have plain (op : Nat) (hop : op < 16) : (packCmd op 0 0 0).toNat = enc op 0 0 0 :=
    toNat_packCmd_eq_enc hop (by decide) (by decide) 0
  exact ⟨plain 0x0 (by decide), toNat_packCmd_eq_enc (by decide) hx hy 0, toNat_packCmd_eq_enc (by decide) hx hy 0,
    toNat_packCmd_eq_enc (by decide) hx hy d, plain 0x4 (by decide), plain 0x5 (by decide), plain 0x6 (by decide),
    plain 0x7 (by decide), plain 0x8 (by decide), plain 0x9 (by decide), plain 0xA (by decide), plain 0xB (by decide),
    by decide, by decide⟩

end Sys2Proof
end

section
/-!
PROOFS. How an accepted word ends: with the result of its command, or with one error (spec/30_encoding.md R90, R91).
-/

namespace Sys2Proof.Machine

/-- `RESULT` of a command that succeeds, as a number (R91). -/
def State.resultOf (s : State) (i : Instr) : Nat :=
  match i with
  | .addr x y => y * s.cfg.S + x
  | .read x y => (Memory.get s.fb (s.cfg.off x y)).toNat
  | _ => 0

/-- A command on one pixel raises InvalidCoordinate unless its pair is logical. -/
theorem atPixel_ends {s : State} {x y n : Nat} {f : BitVec 32 → Host.Outcome State Fault Refusal}
    (h : s.cfg.inBounds x y = true → ∃ u r, f (BitVec.ofNat 32 (s.cfg.off x y)) = respond r u ∧ r.toNat = n) :
    (∃ u r, atPixel x y s f = respond r u ∧ r.toNat = n) ∨
    ∃ e, e ≠ .invalidDimension ∧ atPixel x y s f = raise e s := by
  by_cases hb : s.cfg.inBounds x y = true
  · rw [atPixel_of_inBounds hb]
    exact .inl (h hb)
  · exact .inr ⟨.invalidCoordinate, by decide, atPixel_of_outOfBounds (by simpa using hb) f⟩

/-- In a well-formed configuration a command responds with its result or raises; it never stops. -/
theorem exec_ends {s : State} (hc : s.cfg.wf) (i : Instr) :
    (∃ u r, exec i s = respond r u ∧ r.toNat = s.resultOf i) ∨
    ∃ e, e ≠ .invalidDimension ∧ exec i s = raise e s := by
  cases i with
  | status => exact .inl ⟨s, 0, rfl, rfl⟩
  | addr x y =>
    rw [exec, execAddr]
    exact atPixel_ends fun hb => ⟨s, _, rfl, toNat_ofNat_off hc hb⟩
  | read x y =>
    rw [exec, execRead]
    refine atPixel_ends fun hb => ⟨s, (Memory.get s.fb (s.cfg.off x y)).zeroExtend 32, ?_, ?_⟩
    · rw [memRead_off hc hb]
    · exact BitVec.toNat_setWidth_of_le (by decide)
  | write x y v =>
    rw [exec, execWrite]
    exact atPixel_ends fun hb => ⟨_, 0, by rw [memWrite_off hc hb], rfl⟩
  | fliph | mirrv | invert | gray | newframe => exact .inl ⟨_, 0, rfl, rfl⟩
  | gtoggle =>
    cases ht : s.tstate
    · exact .inl ⟨toggleApply s, 0, by rw [exec, execGtoggle, ht], rfl⟩
    · exact .inl ⟨toggleRestore s, 0, by rw [exec, execGtoggle, ht], rfl⟩
  | gapply =>
    cases ht : s.tstate
    · exact .inl ⟨toggleApply s, 0, by rw [exec, execGapply, ht], rfl⟩
    · exact .inr ⟨.stateMisuse, by decide, by rw [exec, execGapply, ht]⟩
  | grestore =>
    cases ht : s.tstate
    · exact .inr ⟨.stateMisuse, by decide, by rw [exec, execGrestore, ht]⟩
    · exact .inl ⟨toggleRestore s, 0, by rw [exec, execGrestore, ht], rfl⟩

/-- Every accepted word ends with its command's result or with one error (R89, R90). -/
theorem runCommand_ends {s : State} (hc : s.cfg.wf) :
    (∃ i u r, decode s.cmd = .ok i ∧ runCommand s = respond r u ∧ r.toNat = s.resultOf i) ∨
    ∃ e, e ≠ .invalidDimension ∧ runCommand s = raise e s := by
  cases hd : decode s.cmd with
  | error e => exact .inr ⟨.illegalCommand, by decide, runCommand_of_decode_error hd⟩
  | ok i =>
    have hrun : runCommand s = exec i s := by rw [runCommand, hd]
    rw [hrun]
    exact (exec_ends hc i).imp_left fun ⟨u, r, h⟩ => ⟨i, u, r, rfl, h⟩

/-- The response of a success is legal (R90, R191). -/
theorem legalResponse_success (t : ToggleState) (r : BitVec 32) : legalResponse t (rspWord t 0 r) := by
  simp [legalResponse]

/-- The response of an error is legal but for InvalidDimension, which no response carries (R90, R191, R193). -/
theorem legalResponse_error (t : ToggleState) {e : Err} (he : e ≠ .invalidDimension) :
    legalResponse t (rspWord t e.code 0) := by
  cases e <;> simp_all [legalResponse, Err.code]

theorem Err.code_ne_zero (e : Err) : e.code ≠ 0 := by
  cases e <;> decide

/-- Settles O41: a response to a success and a response to an error are both legal. -/
theorem everyWordGetsALegalResponse : Obligations.EveryWordGetsALegalResponse := by
  intro s hc
  rcases runCommand_ends hc with ⟨i, u, r, -, hrun, -⟩ | ⟨e, he, hrun⟩
  · exact ⟨_, _, hrun.trans (respond_eq r u), rfl, legalResponse_success _ r⟩
  · exact ⟨_, _, hrun.trans (raise_eq e s), rfl, legalResponse_error _ he⟩

/-- Settles O42: `ERR` tells the two ends apart, and each has its `RESULT` and the TSTATE it leaves. -/
theorem resultPerCommand : Obligations.ResultPerCommand := by
  intro s t w hc hrun hw
  rcases runCommand_ends hc with ⟨i, u, r, hd, hend, hr⟩ | ⟨e, -, hend⟩
  · obtain rfl := Host.Outcome.next.inj ((hend.trans (respond_eq r u)).symm.trans hrun)
    obtain rfl := Option.some.inj hw
    rw [rspErr_rspWord, rspResult_rspWord, rspState_rspWord]
    exact ⟨fun _ => ⟨i, hd, hr⟩, fun h => absurd rfl h, rfl⟩
  · obtain rfl := Host.Outcome.next.inj ((hend.trans (raise_eq e s)).symm.trans hrun)
    obtain rfl := Option.some.inj hw
    rw [rspErr_rspWord, rspResult_rspWord, rspState_rspWord]
    exact ⟨fun h => absurd h e.code_ne_zero, fun _ => ⟨rfl, rfl⟩, rfl⟩

/-! ### Pseudo-instructions (R94) -/

/-- Settles O7: MIRRV reads row `H-1-y` of the flipped frame, in which FLIPH has put column `W-1-x`. -/
theorem pseudoInstructionsExpand : Obligations.PseudoInstructionsExpand := by
  refine ⟨rfl, rfl, rfl, fun s hc => ⟨rfl, _, rfl, fun x y hx hy => ?_⟩⟩
  calc Memory.get (mirrored s.cfg (flipped s.cfg s.fb)) (s.cfg.off x y)
      = Memory.get (flipped s.cfg s.fb) (s.cfg.off x (s.cfg.H - 1 - y)) := get_mirrored_off hc _ hx hy
    _ = Memory.get s.fb (s.cfg.off (s.cfg.W - 1 - x) (s.cfg.H - 1 - y)) :=
      get_flipped_off hc _ hx (by omega)

end Sys2Proof.Machine
end

section
/-!
PROOFS. The offset of a logical pixel: its bound, its order and its form for a stride that is a power of two
(spec/40_addressing_port.md R110, R112).
-/

namespace Sys2Proof

open Machine

/-- No logical pixel comes after the last column of the last row (R110). -/
theorem Config.off_le_off_last (c : Config) {x y : Nat} (hx : x < c.W) (hy : y < c.H) :
    c.off x y ≤ c.off (c.W - 1) (c.H - 1) :=
  Nat.add_le_add (Nat.mul_le_mul_right c.S (Nat.le_sub_one_of_lt hy)) (Nat.le_sub_one_of_lt hx)

/-- An offset determines the column and the row of its pixel (R112). -/
theorem Config.off_inj {c : Config} (hc : c.wf) {u v x y : Nat} (hu : u < c.W) (hx : x < c.W)
    (h : c.off u v = c.off x y) : u = x ∧ v = y := by
  have hcol : c.colOf (c.off u v) = c.colOf (c.off x y) := congrArg c.colOf h
  have hrow : c.rowOf (c.off u v) = c.rowOf (c.off x y) := congrArg c.rowOf h
  rw [c.colOf_off hc hu, c.colOf_off hc hx] at hcol
  rw [c.rowOf_off hc hu, c.rowOf_off hc hx] at hrow
  exact ⟨hcol, hrow⟩

theorem Config.off_succ_col (c : Config) (x y : Nat) : c.off (x + 1) y = c.off x y + 1 := rfl

theorem Config.off_succ_row (c : Config) (x y : Nat) : c.off x (y + 1) = c.off x y + c.S := by
  rw [Config.off, Config.off, Nat.succ_mul, Nat.add_right_comm]

/-- With stride `2 ^ n` the column occupies the low `n` bits and the row those above (R112). -/
theorem Config.off_eq_shiftLeft_or {c : Config} (hc : c.wf) {n : Nat} (hS : c.S = 2 ^ n) {x : Nat} (hx : x < c.W)
    (y : Nat) : c.off x y = (y <<< n) ||| x := by
  have hlow : x < 2 ^ n := hS ▸ Nat.lt_of_lt_of_le hx (c.W_le_S hc)
  rw [← Nat.shiftLeft_add_eq_or_of_lt hlow, Nat.shiftLeft_eq, ← hS, Config.off]

/-- Settles O8: the last logical pixel bounds every offset, and it exists in a frame of at most 2^32 elements. -/
theorem offsetsFitAndNeverWrap : Obligations.OffsetsFitAndNeverWrap := by
  intro c x y hc hx hy
  have hlast : c.off (c.W - 1) (c.H - 1) < c.depth := c.off_lt_depth hc (by omega) (by omega)
  exact ⟨toNat_addresser hc hx hy, rfl, c.off_le_off_last hx hy, hlast, c.depth_le hc⟩

/-- Settles O9: column and row are recovered from the offset, which rises by 1 along a row and by `S` along a column. -/
theorem offsetIsInjectiveAndRowMajor : Obligations.OffsetIsInjectiveAndRowMajor := fun c x y hc hx hy =>
  ⟨fun _ _ hu _ h => c.off_inj hc hu hx h, fun _ => c.off_succ_col x y, c.off_succ_row x y, c.isLogical_off hc hx hy,
    fun _ hS => c.off_eq_shiftLeft_or hc hS hx y⟩

end Sys2Proof
end

section
/-!
PROOFS. The per-pixel units: inversion as a complement, the luminance as a monotone sum of the channels, and the gray
pixel of a luminance (spec/41_pixel_transforms.md R131 to R136).
-/

namespace Sys2Proof.Machine

/-! ### Inversion (R131) -/

theorem toNat_inv (p : Pixel) : (inv p).toNat = 2 ^ 16 - 1 - p.toNat := by
  have := red_le p
  have := green_le p
  have := blue_le p
  rw [inv, toNat_pack (by omega) (by omega) (by omega), ← fields_sum_eq_toNat p]
  omega

/-- No field borrows from the next one, so the channelwise difference is the complement of the whole pixel. -/
theorem inv_eq_not (p : Pixel) : inv p = ~~~p :=
  BitVec.eq_of_toNat_eq ((toNat_inv p).trans BitVec.toNat_not.symm)

theorem inv_eq_xor (p : Pixel) : inv p = p ^^^ 0xFFFF :=
  (inv_eq_not p).trans BitVec.xor_allOnes.symm

@[simp] theorem inv_inv (p : Pixel) : inv (inv p) = p := by
  rw [inv_eq_not, inv_eq_not, BitVec.not_not]

/-- Settles O24: the complement of 16 bits is XOR with all ones and undoes itself. -/
theorem inversionIsTheComplement : Obligations.InversionIsTheComplement :=
  fun p => ⟨rfl, inv_eq_xor p, inv_inv p⟩

/-! ### The luminance (R132, R133) -/

theorem up5_mono {c d : Nat} (h : c ≤ d) : up5 c ≤ up5 d :=
  Nat.div_le_div_right (Nat.mul_le_mul_right 255 h)

theorem up6_mono {c d : Nat} (h : c ≤ d) : up6 c ≤ up6 d :=
  Nat.div_le_div_right (Nat.mul_le_mul_right 255 h)

theorem weightedSum_mono {r g b r' g' b' : Nat} (hr : r ≤ r') (hg : g ≤ g') (hb : b ≤ b') :
    up5 r * 299 + up6 g * 587 + up5 b * 114 ≤ up5 r' * 299 + up6 g' * 587 + up5 b' * 114 :=
  Nat.add_le_add
    (Nat.add_le_add (Nat.mul_le_mul_right 299 (up5_mono hr)) (Nat.mul_le_mul_right 587 (up6_mono hg)))
    (Nat.mul_le_mul_right 114 (up5_mono hb))

/-- No raised channel lowers the luminance. -/
theorem lumaOf_mono {r g b r' g' b' : Nat} (hr : r ≤ r') (hg : g ≤ g') (hb : b ≤ b') :
    lumaOf r g b ≤ lumaOf r' g' b' :=
  Nat.div_le_div_right (weightedSum_mono hr hg hb)

theorem luma_le (p : Pixel) : luma p ≤ 255 :=
  lumaOf_mono (red_le p) (green_le p) (blue_le p)

/-- One step down in one channel of white costs at least two steps of luminance, the least of them in blue. -/
theorem lumaOf_le_of_not_white {r g b : Nat} (hr : r ≤ 31) (hg : g ≤ 63) (hb : b ≤ 31)
    (h : r ≤ 30 ∨ g ≤ 62 ∨ b ≤ 30) : lumaOf r g b ≤ 253 := by
  rcases h with h | h | h
  · exact (lumaOf_mono h hg hb).trans (by decide : lumaOf 30 63 31 ≤ 253)
  · exact (lumaOf_mono hr h hb).trans (by decide : lumaOf 31 62 31 ≤ 253)
  · exact (lumaOf_mono hr hg h : lumaOf r g b ≤ lumaOf 31 63 30)

/-- Only white has a luminance above 253. -/
theorem luma_le_of_ne_white {p : Pixel} (h : p ≠ 0xFFFF) : luma p ≤ 253 := by
  have hr := red_le p
  have hg := green_le p
  have hb := blue_le p
  refine lumaOf_le_of_not_white hr hg hb ?_
  by_contra hmax
  refine h (BitVec.eq_of_toNat_eq ((fields_sum_eq_toNat p).symm.trans ?_))
  change _ = 65535
  omega

theorem luma_ne_254 (p : Pixel) : luma p ≠ 254 := by
  by_cases h : p = 0xFFFF
  · rw [h]
    decide
  · have := luma_le_of_ne_white h
    omega

/-- The luminance as arithmetic on the pixel's number. -/
theorem luma_eq_toNat_arith (p : Pixel) :
    luma p = ((p.toNat / 2048 * 255 / 31) * 299 + (p.toNat / 32 % 64 * 255 / 63) * 587 +
      (p.toNat % 32 * 255 / 31) * 114) / 1000 := by
  rw [← red_eq_toNat_div, ← green_eq_toNat_div_mod, ← blue_eq_toNat_mod]
  rfl

/-! ### The gray pixel of a luminance (R132, R133, R136) -/

theorem shadeField5_le {l : Nat} (h : l ≤ 255) : l * 31 / 255 ≤ 31 := by omega

theorem shadeField6_le {l : Nat} (h : l ≤ 255) : l * 63 / 255 ≤ 63 := by omega

theorem toNat_shade {l : Nat} (h : l ≤ 255) :
    (shade l).toNat = l * 31 / 255 * 2048 + l * 63 / 255 * 32 + l * 31 / 255 :=
  toNat_pack (shadeField5_le h) (shadeField6_le h) (shadeField5_le h)

/-- R136, evaluated in two halves. -/
theorem map_shade_eq_shadeTable : (List.range 256).map shade = shadeTable := by
  have low : (List.range' 0 128).map shade = shadeTable.take 128 := by decide
  have high : (List.range' 128 128).map shade = shadeTable.drop 128 := by decide
  rw [List.range_eq_range', ← List.range'_append_1 (m := 128) (n := 128), List.map_append, low, high,
    List.take_append_drop]

/-- Settles O25: the fields are digits of the pixel's number, no output field overflows, the tables are evaluated, and
a step down from white skips 254. -/
theorem grayIsTheStatedArithmetic : Obligations.GrayIsTheStatedArithmetic :=
  ⟨fun p => ⟨luma_eq_toNat_arith p, toNat_shade (luma_le p)⟩, by decide, by decide, map_shade_eq_shadeTable,
    luma_ne_254, ⟨0xFFFE, by decide⟩⟩

/-- Settles O26: every bound is the value at white, which no channel exceeds. -/
theorem luminanceFitsItsWidths : Obligations.LuminanceFitsItsWidths := by
  intro p
  have hr := red_le p
  have hg := green_le p
  have hb := blue_le p
  have hl := luma_le p
  exact ⟨Nat.mul_le_mul_right 255 hr, Nat.mul_le_mul_right 255 hg, Nat.mul_le_mul_right 255 hb, by decide, by decide,
    weightedSum_mono hr hg hb, by decide, hl, Nat.mul_le_mul_right 63 hl, shadeField5_le hl, shadeField6_le hl,
    by rintro rfl; decide⟩

end Sys2Proof.Machine
end

section
/-!
PROOFS. The algebra of the whole-frame commands (spec/41_pixel_transforms.md R144): each is a sweep, a command after a
sweep is one sweep again, and two sweeps of the same pixel values are the same memory.
-/

namespace Sys2Proof.Machine

/-! ### Sweeps after sweeps -/

/-- A sweep rewrites all that the sweep before it wrote. -/
theorem backupSweep_backupSweep {c : Config} (hc : c.wf) {m : Memory} (hm : m.wf) (g h : Nat → Nat → Pixel) :
    backupSweep c (backupSweep c m g) h = backupSweep c m h := by
  refine Memory.ext_of_get (wf_backupSweep (wf_backupSweep hm c g) c h) (wf_backupSweep hm c h) fun o => ?_
  simp only [get_backupSweep hc]
  split <;> rfl

/-- A sweep that writes back what stands there changes nothing. -/
theorem backupSweep_frameRead {c : Config} (hc : c.wf) {m : Memory} (hm : m.wf) :
    backupSweep c m (frameRead c m) = m := by
  refine Memory.ext_of_get (wf_backupSweep hm c _) hm fun o => ?_
  rw [get_backupSweep hc]
  split
  · rename_i ho
    obtain ⟨hx, hy⟩ := (c.inBounds_iff _ _).mp ho
    rw [frameRead_eq hc m hx hy, c.off_colOf_rowOf]
  · rfl

/-- What a sequencer reads after a sweep is what the sweep wrote. -/
theorem frameRead_backupSweep {c : Config} (hc : c.wf) (m : Memory) (g : Nat → Nat → Pixel) {x y : Nat}
    (hx : x < c.W) (hy : y < c.H) : frameRead c (backupSweep c m g) x y = g x y :=
  (frameRead_eq hc _ hx hy).trans (get_backupSweep_off hc m g hx hy)

section
variable {c : Config} (hc : c.wf) {m : Memory} (hm : m.wf) (g : Nat → Nat → Pixel)
include hc hm

theorem flipped_backupSweep :
    flipped c (backupSweep c m g) = backupSweep c m (fun x y => g (c.W - 1 - x) y) := by
  rw [flipped, frameSweep_eq, backupSweep_backupSweep hc hm]
  exact backupSweep_congr hc hm fun x y hx hy => frameRead_backupSweep hc m g (by omega) hy

theorem mirrored_backupSweep :
    mirrored c (backupSweep c m g) = backupSweep c m (fun x y => g x (c.H - 1 - y)) := by
  rw [mirrored, frameSweep_eq, backupSweep_backupSweep hc hm]
  exact backupSweep_congr hc hm fun x y hx hy => frameRead_backupSweep hc m g hx (by omega)

theorem pixelwise_backupSweep (f : Pixel → Pixel) :
    pixelwise c f (backupSweep c m g) = backupSweep c m (fun x y => f (g x y)) := by
  rw [pixelwise, frameSweep_eq, backupSweep_backupSweep hc hm]
  exact backupSweep_congr hc hm fun x y hx hy => congrArg f (frameRead_backupSweep hc m g hx hy)

end

/-! ### The laws, on the frame memory -/

section
variable {c : Config} (hc : c.wf) {m : Memory} (hm : m.wf)
include hc hm

theorem flipped_flipped : flipped c (flipped c m) = m := by
  calc flipped c (flipped c m)
      = backupSweep c m (fun x y => frameRead c m (c.W - 1 - (c.W - 1 - x)) y) := flipped_backupSweep hc hm _
    _ = backupSweep c m (frameRead c m) := backupSweep_congr hc hm fun x y hx _ => by
      rw [Nat.sub_sub_self (Nat.le_sub_one_of_lt hx)]
    _ = m := backupSweep_frameRead hc hm

theorem mirrored_mirrored : mirrored c (mirrored c m) = m := by
  calc mirrored c (mirrored c m)
      = backupSweep c m (fun x y => frameRead c m x (c.H - 1 - (c.H - 1 - y))) := mirrored_backupSweep hc hm _
    _ = backupSweep c m (frameRead c m) := backupSweep_congr hc hm fun x y _ hy => by
      rw [Nat.sub_sub_self (Nat.le_sub_one_of_lt hy)]
    _ = m := backupSweep_frameRead hc hm

/-- A per-pixel unit that undoes itself gives a command that undoes itself. -/
theorem pixelwise_pixelwise_of_involutive {f : Pixel → Pixel} (hf : f.Involutive) :
    pixelwise c f (pixelwise c f m) = m := by
  calc pixelwise c f (pixelwise c f m)
      = backupSweep c m (fun x y => f (f (frameRead c m x y))) := pixelwise_backupSweep hc hm _ f
    _ = backupSweep c m (frameRead c m) := backupSweep_congr hc hm fun x y _ _ => hf (frameRead c m x y)
    _ = m := backupSweep_frameRead hc hm

/-- FLIPH then MIRRV is the half turn. -/
theorem mirrored_flipped_eq_backupSweep :
    mirrored c (flipped c m) = backupSweep c m (fun x y => frameRead c m (c.W - 1 - x) (c.H - 1 - y)) :=
  mirrored_backupSweep hc hm _

theorem mirrored_flipped_comm : mirrored c (flipped c m) = flipped c (mirrored c m) :=
  (mirrored_flipped_eq_backupSweep hc hm).trans
    (flipped_backupSweep hc hm (fun x y => frameRead c m x (c.H - 1 - y))).symm

/-- A reflection moves pixels whole, so it commutes with any per-pixel unit. -/
theorem flipped_pixelwise_comm (f : Pixel → Pixel) : flipped c (pixelwise c f m) = pixelwise c f (flipped c m) :=
  (flipped_backupSweep hc hm _).trans (pixelwise_backupSweep hc hm _ f).symm

theorem mirrored_pixelwise_comm (f : Pixel → Pixel) :
    mirrored c (pixelwise c f m) = pixelwise c f (mirrored c m) :=
  (mirrored_backupSweep hc hm _).trans (pixelwise_backupSweep hc hm _ f).symm

end

/-! ### The laws, on runs of commands -/

/-- Two commands that leave the same frame end alike. -/
theorem respond_setFb_congr (s : State) {m n : Memory} (h : m = n) :
    respond 0 (s.setFb m) = respond 0 (s.setFb n) := by
  rw [h]

/-- FLIPH then MIRRV changes no padding and turns the logical pixels by half a turn. -/
theorem execAll_fliph_mirrv {s : State} (hc : s.cfg.wf) (hm : s.fb.wf) :
    ∃ t, execAll [.fliph, .mirrv] s = .next t ∧ OnlyLogicalPixels s t ∧
      ∀ x y, x < s.cfg.W → y < s.cfg.H →
        Memory.get t.fb (s.cfg.off x y) = Memory.get s.fb (s.cfg.off (s.cfg.W - 1 - x) (s.cfg.H - 1 - y)) := by
  refine ⟨_, respond_setFb_congr s (mirrored_flipped_eq_backupSweep hc hm), ⟨rfl, fun o ho => ?_⟩,
    fun x y hx hy => ?_⟩
  · exact get_backupSweep_padding hc _ _ ho
  · exact (get_backupSweep_off hc _ _ hx hy).trans (frameRead_eq hc _ (by omega) (by omega))

/-- Settles O20: the laws of the frame memories, each run of two commands being one response after two rewrites of the
frame; `gray` and `inv` are evaluated on the rule's pixel. -/
theorem frameCommandLaws : Obligations.FrameCommandLaws := by
  refine ⟨fun s hc hm => ⟨⟨?_, ?_, ?_⟩, ⟨?_, execAll_fliph_mirrv hc hm⟩, ?_, ?_, ?_, ?_⟩, ?_⟩
  · exact respond_setFb_congr s (flipped_flipped hc hm)
  · exact respond_setFb_congr s (mirrored_mirrored hc hm)
  · exact respond_setFb_congr s (pixelwise_pixelwise_of_involutive hc hm inv_inv)
  · exact respond_setFb_congr s (mirrored_flipped_comm hc hm)
  · exact respond_setFb_congr s (flipped_pixelwise_comm hc hm inv)
  · exact respond_setFb_congr s (mirrored_pixelwise_comm hc hm inv)
  · exact respond_setFb_congr s (flipped_pixelwise_comm hc hm gray)
  · exact respond_setFb_congr s (mirrored_pixelwise_comm hc hm gray)
  · decide

end Sys2Proof.Machine
end

section
/-!
PROOFS. The grayscale round trip (spec/42_grayscale_toggle.md R168): the backup taken by the apply is still there at the
restore, because no command in between touches it or TSTATE.
-/

namespace Sys2Proof.Machine

/-- What the restore depends on, apart from the frame it overwrites, is the same in both states. -/
structure SameToggle (s t : State) : Prop where
  cfg : t.cfg = s.cfg
  tstate : t.tstate = s.tstate
  bb : t.bb = s.bb

theorem SameToggle.refl (s : State) : SameToggle s s := ⟨rfl, rfl, rfl⟩

theorem SameToggle.trans {s t u : State} (h : SameToggle s t) (h' : SameToggle t u) : SameToggle s u :=
  ⟨h'.cfg.trans h.cfg, h'.tstate.trans h.tstate, h'.bb.trans h.bb⟩

/-! ### Commands that do not move the toggle -/

/-- The bounds check itself touches neither TSTATE nor the backup. -/
theorem atPixel_sameToggle {s : State} {x y : Nat} {f : BitVec 32 → Host.Outcome State Fault Refusal}
    (h : s.cfg.inBounds x y = true → ∃ t, f (BitVec.ofNat 32 (s.cfg.off x y)) = .next t ∧ SameToggle s t) :
    ∃ t, atPixel x y s f = .next t ∧ SameToggle s t := by
  by_cases hb : s.cfg.inBounds x y = true
  · rw [atPixel_of_inBounds hb]
    exact h hb
  · exact ⟨_, atPixel_of_outOfBounds (by simpa using hb) f, rfl, rfl, rfl⟩

/-- Every command but GTOGGLE, GAPPLY, GRESTORE and NEWFRAME completes with TSTATE and the backup as they were. -/
theorem exec_sameToggle {s : State} (hc : s.cfg.wf) {i : Instr} (hi : movesToggle i = false) :
    ∃ t, exec i s = .next t ∧ SameToggle s t := by
  cases i with
  | status | fliph | mirrv | invert | gray => exact ⟨_, rfl, rfl, rfl, rfl⟩
  | addr x y =>
    rw [exec, execAddr]
    exact atPixel_sameToggle fun _ => ⟨_, rfl, rfl, rfl, rfl⟩
  | read x y =>
    rw [exec, execRead]
    exact atPixel_sameToggle fun hb => by
      rw [memRead_off hc hb]
      exact ⟨_, rfl, rfl, rfl, rfl⟩
  | write x y v =>
    rw [exec, execWrite]
    exact atPixel_sameToggle fun hb => by
      rw [memWrite_off hc hb]
      exact ⟨_, rfl, rfl, rfl, rfl⟩
  | gtoggle | gapply | grestore | newframe => exact absurd hi (by decide)

/-! ### Runs of commands -/

theorem execAll_cons_of_next {i : Instr} {s t : State} (h : exec i s = .next t) (is : List Instr) :
    execAll (i :: is) s = execAll is t := by
  rw [execAll, h]

/-- Any run of such commands, of any length, before a run `is`: TSTATE and the backup reach `is` as they were. -/
theorem execAll_append_sameToggle {s : State} (hc : s.cfg.wf) {mid : List Instr}
    (hmid : ∀ i ∈ mid, movesToggle i = false) (is : List Instr) :
    ∃ t, execAll (mid ++ is) s = execAll is t ∧ SameToggle s t := by
  induction mid generalizing s with
  | nil => exact ⟨s, rfl, .refl s⟩
  | cons i mid ih =>
    obtain ⟨hi, hrest⟩ := List.forall_mem_cons.mp hmid
    obtain ⟨t, ht, hst⟩ := exec_sameToggle hc hi
    obtain ⟨u, hu, htu⟩ := ih (hst.cfg ▸ hc) hrest
    exact ⟨u, (execAll_cons_of_next ht _).trans hu, hst.trans htu⟩

/-! ### Apply and restore -/

/-- In Color, GAPPLY and GTOGGLE are the same transition (R163, R164). -/
theorem exec_apply {s : State} (ht : s.tstate = .color) {a : Instr} (ha : a = .gapply ∨ a = .gtoggle) :
    exec a s = respond 0 (toggleApply s) := by
  rcases ha with rfl | rfl
  · rw [exec, execGapply, ht]
  · rw [exec, execGtoggle, ht]

/-- In Grayscale, GRESTORE and GTOGGLE are the same transition (R163, R165). -/
theorem exec_restore {s : State} (ht : s.tstate = .grayscale) {b : Instr} (hb : b = .grestore ∨ b = .gtoggle) :
    exec b s = respond 0 (toggleRestore s) := by
  rcases hb with rfl | rfl
  · rw [exec, execGrestore, ht]
  · rw [exec, execGtoggle, ht]

/-- A restore from the backup that an apply took gives back the frame before the apply, whatever frame it finds. -/
theorem get_toggleRestore_off {s u : State} (hc : s.cfg.wf) (h : SameToggle (toggleApply s) u) {x y : Nat}
    (hx : x < s.cfg.W) (hy : y < s.cfg.H) :
    Memory.get (toggleRestore u).fb (s.cfg.off x y) = Memory.get s.fb (s.cfg.off x y) := by
  have hcfg : u.cfg = s.cfg := h.cfg
  have hbb : u.bb = backupSweep s.cfg s.bb (frameRead s.cfg s.fb) := h.bb
  rw [toggleRestore_fb, frameSweep_eq, hcfg, hbb]
  calc Memory.get (backupSweep s.cfg u.fb (backupRead s.cfg (backupSweep s.cfg s.bb (frameRead s.cfg s.fb))))
        (s.cfg.off x y)
      = backupRead s.cfg (backupSweep s.cfg s.bb (frameRead s.cfg s.fb)) x y := get_backupSweep_off hc _ _ hx hy
    _ = Memory.get (backupSweep s.cfg s.bb (frameRead s.cfg s.fb)) (s.cfg.off x y) := backupRead_eq hc _ hx hy
    _ = frameRead s.cfg s.fb x y := get_backupSweep_off hc _ _ hx hy
    _ = Memory.get s.fb (s.cfg.off x y) := frameRead_eq hc _ hx hy

/-- Settles O40: the commands in between hand the apply's backup to the restore unchanged. -/
theorem grayscaleRoundTrip : Obligations.GrayscaleRoundTrip := by
  intro s a b mid hc ht ha hb hmid
  have happly := execAll_cons_of_next (exec_apply ht ha) (mid ++ [b])
  obtain ⟨u, hu, hsame⟩ :=
    execAll_append_sameToggle (s := (toggleApply s).setRsp (rspWord .grayscale 0 0)) hc hmid [b]
  have hrestore := execAll_cons_of_next (exec_restore hsame.tstate hb) []
  exact ⟨_, happly.trans (hu.trans hrestore), rfl, fun x y hx hy =>
    get_toggleRestore_off hc ⟨hsame.cfg, hsame.tstate, hsame.bb⟩ hx hy⟩

end Sys2Proof.Machine
end

section
/-!
PROOFS. Errors (spec/60_exceptions.md R190 to R196): the one error each word can raise, the conditions that raise it,
and that raising it changes nothing but the response.
-/

namespace Sys2Proof.Machine

/-! ### The two ends of a command -/

/-- A response given by `respond` names no error. -/
theorem rspErr_of_respond {a : BitVec 32} {u t : State} {r : RspWord} (h : respond a u = .next t)
    (hr : t.rsp = some r) : rspErr r = 0 := by
  obtain rfl := Host.Outcome.next.inj h
  obtain rfl := Option.some.inj hr
  exact rspErr_rspWord ..

/-- An error leaves its response and nothing else (R14, R196). -/
theorem frame_of_raise {e : Err} {s t : State} {r : RspWord} (h : raise e s = .next t) (hr : t.rsp = some r) :
    t = { s with rsp := some r } ∧ rspResult r = 0 ∧ rspState r = s.tstate.bit ∧ rspErr r = e.code := by
  obtain rfl := Host.Outcome.next.inj h
  obtain rfl := Option.some.inj hr
  exact ⟨rfl, rspResult_rspWord .., rspState_rspWord .., rspErr_rspWord ..⟩

/-! ### The conditions that raise -/

theorem inBounds_eq_false {c : Config} {x y : Nat} (h : c.W ≤ x ∨ c.H ≤ y) : c.inBounds x y = false := by
  rw [← Bool.not_eq_true, c.inBounds_iff]
  omega

/-- GAPPLY raises in Grayscale (R164). -/
theorem exec_gapply_of_grayscale {s : State} (h : s.tstate = .grayscale) :
    exec .gapply s = raise .stateMisuse s := by
  rw [exec, execGapply, h]

/-- GRESTORE raises in Color (R165). -/
theorem exec_grestore_of_color {s : State} (h : s.tstate = .color) :
    exec .grestore s = raise .stateMisuse s := by
  rw [exec, execGrestore, h]

/-- GTOGGLE responds in both states (R163). -/
theorem exec_gtoggle_responds (s : State) : ∃ u, exec .gtoggle s = respond 0 u := by
  cases ht : s.tstate with
  | color => exact ⟨_, exec_apply ht (.inr rfl)⟩
  | grayscale => exact ⟨_, exec_restore ht (.inr rfl)⟩

/-! ### The one error of a word -/

/-- The only error a command can raise (R192, R194). -/
def commandError (i : Instr) : Err :=
  match i with
  | .gapply => .stateMisuse
  | .grestore => .stateMisuse
  | _ => .invalidCoordinate

/-- The only error a decoded word can raise (R192, R194, R195). -/
def decodedError (d : Except Illegal Instr) : Err :=
  match d with
  | .error _ => .illegalCommand
  | .ok i => commandError i

/-- A command that does not stop responds or raises its one error, in every configuration. -/
theorem exec_responds_or_raises {i : Instr} {s t : State} (h : exec i s = .next t) :
    (∃ r u, respond r u = .next t) ∨ raise (commandError i) s = .next t := by
  cases i with
  | status | fliph | mirrv | invert | gray | newframe => exact .inl ⟨_, _, h⟩
  | addr x y =>
    cases hb : s.cfg.inBounds x y with
    | true => exact .inl ⟨_, s, (atPixel_of_inBounds hb (respond · s)).symm.trans h⟩
    | false => exact .inr ((atPixel_of_outOfBounds hb (respond · s)).symm.trans h)
  | read x y =>
    obtain ⟨e, r, rfl | ⟨rfl, rfl⟩, rfl⟩ := execRead_next h
    · exact .inl ⟨r, s, rfl⟩
    · exact .inr rfl
  | write x y v =>
    obtain ⟨-, -, rfl⟩ | ⟨-, rfl⟩ := execWrite_next h
    · exact .inl ⟨0, s.setFb _, rfl⟩
    · exact .inr rfl
  | gtoggle =>
    obtain ⟨u, hu⟩ := exec_gtoggle_responds s
    exact .inl ⟨0, u, hu.symm.trans h⟩
  | gapply =>
    cases ht : s.tstate with
    | color => exact .inl ⟨_, _, (exec_apply ht (.inl rfl)).symm.trans h⟩
    | grayscale => exact .inr ((exec_gapply_of_grayscale ht).symm.trans h)
  | grestore =>
    cases ht : s.tstate with
    | color => exact .inr ((exec_grestore_of_color ht).symm.trans h)
    | grayscale => exact .inl ⟨_, _, (exec_restore ht (.inl rfl)).symm.trans h⟩

/-- An accepted word that does not stop the machine is responded to or raises its one error. -/
theorem runCommand_responds_or_raises {s t : State} (h : runCommand s = .next t) :
    (∃ r u, respond r u = .next t) ∨ raise (decodedError (decode s.cmd)) s = .next t := by
  obtain ⟨i, hd, hi⟩ | ⟨e, hd, rfl⟩ := runCommand_cases h
  · rw [hd]
    exact exec_responds_or_raises hi
  · rw [hd]
    exact .inr rfl

/-! ### The obligations -/

/-- Settles O43: a response with an error was raised, so it is the one error of the word, and raising it keeps the
state. -/
theorem errorsChangeNothing : Obligations.ErrorsChangeNothing := by
  intro s t r hrun hr herr
  obtain ⟨a, u, hrespond⟩ | hraise := runCommand_responds_or_raises hrun
  · exact absurd (rspErr_of_respond hrespond hr) herr
  · obtain ⟨hframe, hresult, hstate, hcode⟩ := frame_of_raise hraise hr
    refine ⟨hframe, hresult, hstate, hcode.trans ?_⟩
    cases decode s.cmd with
    | error e => rfl
    | ok i => cases i <;> rfl

/-- Settles O44: such a word decodes to no command, and what it raises looks at nothing else. -/
theorem illegalWordsRaiseFirst : Obligations.IllegalWordsRaiseFirst := by
  intro s h
  obtain ⟨e, he⟩ := exists_decode_eq_error h
  exact runCommand_of_decode_error he

/-- Settles O14: the three commands share the bounds check, which raises before any access to memory. -/
theorem outOfBoundsRaisesInvalidCoordinate : Obligations.OutOfBoundsRaisesInvalidCoordinate := by
  intro s x y d h
  have hb := inBounds_eq_false h
  rw [exec, execAddr, exec, execRead, exec, execWrite]
  exact ⟨atPixel_of_outOfBounds hb _, atPixel_of_outOfBounds hb _, atPixel_of_outOfBounds hb _⟩

/-- Settles O33: each wrong direction raises, with the TSTATE it found in the response; GTOGGLE has no wrong
direction. -/
theorem wrongDirectionIsStateMisuse : Obligations.WrongDirectionIsStateMisuse := by
  refine fun s => ⟨fun ht => ?_, fun ht => ?_, fun t r h hr => ?_⟩
  · rw [← ht]
    exact exec_gapply_of_grayscale ht
  · rw [← ht]
    exact exec_grestore_of_color ht
  · obtain ⟨u, hu⟩ := exec_gtoggle_responds s
    exact rspErr_of_respond (hu.symm.trans h) hr

end Sys2Proof.Machine
end

section
/-!
PROOFS. A command's word read back (spec/30_encoding.md R85, R92, R93): its fields are the command's opcode and
operands, and masking a word clears the fields that the command does not read.
-/

namespace Sys2Proof

open Machine

/-! ### The fields of a command's word -/

theorem encode_row (i : Instr) : Laws.Row.Statement i := by
  cases i with
  | addr x y => exact Laws.Row.addr x y
  | read x y => exact Laws.Row.read x y
  | write x y d => exact Laws.Row.write x y d
  | _ => exact ⟨Laws.fieldOp_packCmd .., Laws.fieldRsv_packCmd ..⟩

theorem fieldRsv_encode (i : Instr) : fieldRsv (encode i) = 0 := (encode_row i).2

theorem toNat_fieldOp_encode (i : Instr) : (fieldOp (encode i)).toNat = i.opcode := by
  have := i.opcode_le
  rw [(encode_row i).1, BitVec.toNat_ofNat, Nat.mod_eq_of_lt (by omega)]

/-- A coordinate that fits its field is read back from it (R83, R92). -/
theorem toNat_ofNat_of_fitsField {n : Nat} (h : fitsField n = true) : (BitVec.ofNat 16 n).toNat = n := by
  rw [BitVec.toNat_ofNat, Nat.mod_eq_of_lt (of_decide_eq_true h)]

/-- The operands of a well-formed command stand in its word's fields. -/
theorem withFields_encode {i : Instr} (h : i.wf = true) : i.withFields (encode i) = i := by
  cases i with
  | addr x y | read x y | write x y d =>
    obtain ⟨hx, hy⟩ := Bool.and_eq_true_iff.mp h
    simp only [Instr.withFields, encode, Laws.fieldX_packCmd, Laws.fieldY_packCmd, Laws.fieldData_packCmd,
      toNat_ofNat_of_fitsField hx, toNat_ofNat_of_fitsField hy]
  | _ => rfl

/-- Settles O1: the encoder puts the opcode and every operand into the field from which the decoder reads it. -/
theorem decodeUndoesEncode : Obligations.DecodeUndoesEncode := fun i hi =>
  (decode_eq_ok_iff _ i).mpr ⟨fieldRsv_encode i, toNat_fieldOp_encode i, withFields_encode hi⟩

/-! ### The fields a command reads -/

/-- A 16-bit field fits 16 bits. -/
theorem fitsField_toNat (v : BitVec 16) : fitsField v.toNat = true := decide_eq_true v.isLt

/-- Operands read from a word's fields fit them. -/
theorem wf_withFields (i : Instr) (w : CmdWord) : (i.withFields w).wf = true := by
  cases i <;> simp [Instr.withFields, Instr.wf, fitsField_toNat]

/-- A word of given fields is another word under a mask when each field is that word's under the mask's field. -/
theorem packCmd_eq_and_iff (op x y : Nat) (d : Pixel) (w m : CmdWord) :
    packCmd op x y d = w &&& m ↔
      0 = fieldRsv w &&& fieldRsv m ∧ BitVec.ofNat 4 op = fieldOp w &&& fieldOp m ∧
      BitVec.ofNat 16 x = fieldX w &&& fieldX m ∧ BitVec.ofNat 16 y = fieldY w &&& fieldY m ∧
      d = fieldData w &&& fieldData m := by
  rw [cmdWord_eq_iff, Laws.fieldRsv_packCmd, Laws.fieldOp_packCmd, Laws.fieldX_packCmd, Laws.fieldY_packCmd,
    Laws.fieldData_packCmd]
  simp only [fieldOp, fieldRsv, fieldY, fieldX, fieldData, BitVec.extractLsb'_and]

/-- A field under the mask of all its bits. -/
theorem eq_and_of_allOnes {n : Nat} {a v m : BitVec n} (hm : m = BitVec.allOnes n) (h : a = v) : a = v &&& m := by
  rw [hm, BitVec.and_allOnes, h]

/-- A field under the mask of none of its bits. -/
theorem zero_eq_and_of_zero {n : Nat} {v m : BitVec n} (hm : m = 0#n) : 0#n = v &&& m := by
  rw [hm, BitVec.and_zero]

/-- A decoded word under its command's mask is the command's word (R85). -/
theorem encode_eq_and_readMask {w : CmdWord} {i : Instr} (hop : (fieldOp w).toNat = i.opcode)
    (hargs : i.withFields w = i) : encode i = w &&& readMask i := by
  have hop' : BitVec.ofNat 4 i.opcode = fieldOp w := by rw [← hop, BitVec.ofNat_toNat, BitVec.setWidth_eq]
  have coordinate (v : BitVec 16) : BitVec.ofNat 16 v.toNat = v := by rw [BitVec.ofNat_toNat, BitVec.setWidth_eq]
  have plain {op : Nat} (h : BitVec.ofNat 4 op = fieldOp w) : packCmd op 0 0 0 = w &&& 0xF000000000000000 :=
    (packCmd_eq_and_iff ..).mpr ⟨zero_eq_and_of_zero rfl, eq_and_of_allOnes rfl h, zero_eq_and_of_zero rfl,
      zero_eq_and_of_zero rfl, zero_eq_and_of_zero rfl⟩
  cases i with
  | addr x y | read x y =>
    rw [show readMask _ = 0xF000FFFFFFFF0000 from rfl, ← congrArg encode hargs]
    exact (packCmd_eq_and_iff ..).mpr ⟨zero_eq_and_of_zero rfl, eq_and_of_allOnes rfl hop',
      eq_and_of_allOnes rfl (coordinate _), eq_and_of_allOnes rfl (coordinate _), zero_eq_and_of_zero rfl⟩
  | write x y d =>
    rw [show readMask _ = 0xF000FFFFFFFFFFFF from rfl, ← congrArg encode hargs]
    exact (packCmd_eq_and_iff ..).mpr ⟨zero_eq_and_of_zero rfl, eq_and_of_allOnes rfl hop',
      eq_and_of_allOnes rfl (coordinate _), eq_and_of_allOnes rfl (coordinate _), eq_and_of_allOnes rfl rfl⟩
  | _ => exact plain hop'

/-- Settles O2: a decoded word's operands are its own fields, so they fit, and the encoder puts them back. -/
theorem encodeKeepsTheFieldsRead : Obligations.EncodeKeepsTheFieldsRead := by
  intro w i hw
  obtain ⟨-, hop, hargs⟩ := (decode_eq_ok_iff w i).mp hw
  exact ⟨hargs ▸ wf_withFields i w, encode_eq_and_readMask hop hargs⟩

/-- Settles O6: the decoder is evaluated on each word. -/
theorem specWordsDecode : Obligations.SpecWordsDecode := by
  unfold Obligations.SpecWordsDecode
  decide

end Sys2Proof
end

section
/-!
PROOFS. What one step of the system does, event by event (spec/20_memory.md R60, 30_encoding.md R96,
70_reset_and_hazards.md R220): the inversion of `step` from which the invariants below are derived, and the frame of a
command and of the complete step.
-/

namespace Sys2Proof.Machine

/-! ### The fields a command leaves alone -/

/-- A command changes the two memories, TSTATE and the response, and nothing else. -/
theorem exec_frame {i : Instr} {s t : State} (h : exec i s = .next t) :
    t = { s with fb := t.fb, bb := t.bb, tstate := t.tstate, rsp := t.rsp } := by
  obtain ⟨e, r, -, rfl⟩ | ⟨x, y, v, -, -, -, rfl⟩ | ⟨g, -, rfl⟩ | ⟨-, rfl⟩ | ⟨-, rfl⟩ | ⟨-, rfl⟩ := exec_cases h <;> rfl

theorem runCommand_frame {s t : State} (h : runCommand s = .next t) :
    t = { s with fb := t.fb, bb := t.bb, tstate := t.tstate, rsp := t.rsp } := by
  obtain ⟨i, -, hi⟩ | ⟨e, -, rfl⟩ := runCommand_cases h
  · exact exec_frame hi
  · rfl

/-- The complete step may also set the overlap mark and make free draws. -/
theorem complete_frame {s t : State} (h : complete s = .next t) :
    t = { s with fb := t.fb, bb := t.bb, tstate := t.tstate, rsp := t.rsp, captureOverlap := t.captureOverlap,
                 draws := t.draws } := by
  obtain ⟨-, -, hrun⟩ | ⟨u, hrun, rfl⟩ := complete_cases h
  · rw [runCommand_frame hrun]
  · rw [runCommand_frame hrun]
    rfl

section
variable {s t : State} (h : complete s = .next t)
include h

theorem complete_cfg : t.cfg = s.cfg := by rw [complete_frame h]
theorem complete_busy : t.busy = s.busy := by rw [complete_frame h]
theorem complete_captureEn : t.captureEn = s.captureEn := by rw [complete_frame h]
theorem complete_prog : t.prog = s.prog := by rw [complete_frame h]
theorem complete_k : t.k = s.k := by rw [complete_frame h]

end

/-! ### The complete step of a well-formed configuration -/

/-- The complete step always ends, with a legal response (R90, R202). -/
theorem complete_answers {s : State} (hc : s.cfg.wf) :
    ∃ t r, complete s = .next t ∧ t.rsp = some r ∧ legalResponse t.tstate r := by
  unfold complete
  split
  · obtain ⟨u, r, hu, hr, hl⟩ := everyWordGetsALegalResponse (overlap s) hc
    exact ⟨overlap u, r, by rw [hu]; rfl, hr, hl⟩
  · exact everyWordGetsALegalResponse s hc

/-- Every response that the complete step offers is legal. -/
theorem complete_rsp {s t : State} (hc : s.cfg.wf) (h : complete s = .next t) :
    ∃ r, t.rsp = some r ∧ legalResponse t.tstate r := by
  obtain ⟨u, r, hu, hr⟩ := complete_answers hc
  obtain rfl := Host.Outcome.next.inj (hu.symm.trans h)
  exact ⟨r, hr⟩

/-! ### The effects of a step -/

/-- What a clock edge can do to a state, the move that gave it being gone. -/
inductive EdgeEffect (s : State) : State → Prop
  /-- The line is high: the registers take their reset values. -/
  | reset (hrst : s.rst = true) : EdgeEffect s (resetBlock s)
  /-- The accepted word runs. -/
  | complete {t : State} (hs : s.executing) (h : complete s = .next t) : EdgeEffect s t
  /-- The pending response is taken. -/
  | take {r : RspWord} (hrst : s.rst = false) (hbusy : s.busy = true) (hrsp : s.rsp = some r)
      (hready : s.rspReady = true) : EdgeEffect s (takeResponse s)
  /-- The pending response is not taken. -/
  | hold {r : RspWord} (hrst : s.rst = false) (hbusy : s.busy = true) (hrsp : s.rsp = some r)
      (hready : s.rspReady = false) : EdgeEffect s s
  /-- The host's next word is accepted. -/
  | accept {w : CmdWord} (hrst : s.rst = false) (hbusy : s.busy = false) (hvalid : s.cmdValid = true)
      (hw : s.prog[s.k]? = some w) : EdgeEffect s (accept w s)
  /-- No word is offered. -/
  | idle (hrst : s.rst = false) (hbusy : s.busy = false) : EdgeEffect s s

/-- What a move other than a clock edge can do to a state, the move being gone. -/
inductive MoveEffect (s : State) : Move → State → Prop
  | setValid (v : Bool) : MoveEffect s (.setValid v) { s with cmdValid := v }
  | setReady (v : Bool) : MoveEffect s (.setReady v) { s with rspReady := v }
  | setRst (v : Bool) : MoveEffect s (.setRst v) { s with rst := v }
  | setCapture (v : Bool) : MoveEffect s (.setCapture v) (setCapture v s)
  /-- The camera writes one existing element. -/
  | camera (o : Nat) (v : Pixel) (hen : s.captureEn = true) (ho : o < s.cfg.depth) :
      MoveEffect s (.camera o v) (s.setFb (Memory.set s.fb o v))
  /-- Capture is disabled, so the camera does nothing. -/
  | cameraOff (o : Nat) (v : Pixel) (hen : s.captureEn = false) : MoveEffect s (.camera o v) s

theorem progress_effect {s t : State} (h : progress s = .next t) : EdgeEffect s t := by
  obtain ⟨hrst, rfl⟩ | ⟨hrst, hbusy, hrsp, hrun⟩ | ⟨hrst, hbusy, hrsp, rfl⟩ | ⟨hrst, hbusy, rfl⟩ := progress_cases h
  · exact .reset hrst
  · exact .complete ⟨hrst, hbusy, hrsp⟩ hrun
  · obtain ⟨r, hr⟩ := Option.isSome_iff_exists.mp hrsp
    cases hready : s.rspReady with
    | true => exact .take hrst hbusy hr hready
    | false => exact .hold hrst hbusy hr hready
  · obtain heq | ⟨w, hvalid, hw, heq⟩ := offer_cases s
    · rw [heq]
      exact .idle hrst hbusy
    · rw [heq]
      exact .accept hrst hbusy hvalid hw

/-- A step is a clock edge or another move, and does what its kind can do. -/
theorem step_effect {s t : State} (h : step s = .next t) :
    s.cfg.wf ∧ ∃ ms,
      (s.atEdge ms ∧ EdgeEffect { s with moves := ms } t) ∨
      (∃ m, s.moves = m :: ms ∧ MoveEffect { s with moves := ms } m t) := by
  obtain ⟨hc, ⟨m, ms, hm, happ⟩ | ⟨hm, -, hprog⟩⟩ := step_cases h
  · refine ⟨hc, ms, ?_⟩
    cases m with
    | go => exact .inl ⟨.inl hm, progress_effect happ⟩
    | setValid v | setReady v | setRst v | setCapture v =>
      obtain rfl := Host.Outcome.next.inj happ
      exact .inr ⟨_, hm, by constructor⟩
    | camera o v =>
      obtain ⟨hen, ho, rfl⟩ | ⟨hen, rfl⟩ := cameraWrite_cases happ
      · exact .inr ⟨_, hm, .camera o v hen ho⟩
      · exact .inr ⟨_, hm, .cameraOff o v hen⟩
  · exact ⟨hc, [], .inl ⟨.inr ⟨hm, rfl⟩, progress_effect (by rw [← hm]; exact hprog)⟩⟩

/-! ### Capture overlap -/

theorem accept_captureOverlap (w : CmdWord) (s : State) :
    (accept w s).captureOverlap = (s.captureOverlap || s.captureEn) := by
  unfold accept
  cases hen : s.captureEn <;> simp

theorem setCapture_captureOverlap (v : Bool) (s : State) :
    (setCapture v s).captureOverlap = (s.captureOverlap || (v && s.busy)) := by
  unfold setCapture
  cases hv : v && s.busy <;> simp

/-- The complete step sets the mark exactly when capture overlaps the command (R33). -/
theorem complete_captureOverlap {s t : State} (h : complete s = .next t) :
    t.captureOverlap = (s.captureOverlap || s.captureEn) := by
  unfold complete at h
  split at h
  · rename_i hclash
    obtain ⟨u, -, rfl⟩ := onNext_next h
    rw [overlap_captureOverlap, Bool.or_comm, hclash]
  · rename_i hclear
    obtain ⟨hen, -⟩ := Bool.or_eq_false_iff.mp (Bool.eq_false_of_not_eq_true hclear)
    rw [runCommand_frame h, hen, Bool.or_false]

end Sys2Proof.Machine
end

section
/-!
PROOFS. The invariant of the system (spec/10_state.md R25 to R33, 30_encoding.md R90): each effect of a step keeps it.
-/

namespace Sys2Proof.Machine

/-! ### The memories stay canonical and in range -/

/-- Both memories are canonical and list only elements that exist (R25, R27). -/
structure MemoriesOk (s : State) : Prop where
  fb_wf : s.fb.wf
  fb_below : s.fb.below s.cfg.depth
  bb_wf : s.bb.wf
  bb_below : s.bb.below s.cfg.depth

theorem SystemInv.memoriesOk {s : State} (h : SystemInv s) : MemoriesOk s :=
  ⟨h.fb_wf, h.fb_below, h.bb_wf, h.bb_below⟩

section
variable {s : State} (h : MemoriesOk s)
include h

theorem MemoriesOk.set {o : Nat} (ho : o < s.cfg.depth) (v : Pixel) : MemoriesOk (s.setFb (Memory.set s.fb o v)) :=
  { h with fb_wf := Memory.wf_set h.fb_wf o v, fb_below := Memory.below_set h.fb_below ho v }

theorem MemoriesOk.sweep (g : Nat → Nat → Pixel) : MemoriesOk (s.setFb (frameSweep s.cfg s.fb g)) :=
  { h with fb_wf := wf_backupSweep h.fb_wf s.cfg g, fb_below := below_backupSweep h.fb_below g }

theorem MemoriesOk.backup (g : Nat → Nat → Pixel) : MemoriesOk (s.setBb (backupSweep s.cfg s.bb g)) :=
  { h with bb_wf := wf_backupSweep h.bb_wf s.cfg g, bb_below := below_backupSweep h.bb_below g }

theorem MemoriesOk.drawFb (p : Nat → Bool) : MemoriesOk (drawFb p s) :=
  { h with fb_wf := Memory.wf_rewrite h.fb_wf _ _, fb_below := Memory.below_rewrite h.fb_below _ }

theorem MemoriesOk.drawBb : MemoriesOk (drawBb s) :=
  { h with bb_wf := Memory.wf_rewrite h.bb_wf _ _, bb_below := Memory.below_rewrite h.bb_below _ }

theorem MemoriesOk.overlap : MemoriesOk (overlap s) :=
  MemoriesOk.drawFb (s := { s with captureOverlap := true }) { h with } _

theorem MemoriesOk.accept (w : CmdWord) : MemoriesOk (accept w s) := by
  unfold Machine.accept
  split
  · exact MemoriesOk.overlap { h with }
  · exact { h with }

theorem MemoriesOk.setCapture (v : Bool) : MemoriesOk (setCapture v s) := by
  unfold Machine.setCapture
  split
  · exact MemoriesOk.overlap { h with }
  · exact { h with }

theorem MemoriesOk.resetBlock : MemoriesOk (resetBlock s) := by
  have habandon : MemoriesOk (abandon s) := by
    unfold abandon
    split
    · exact (h.drawFb _).drawBb
    · exact h
  exact { habandon with }

/-- A command writes existing elements only. -/
theorem MemoriesOk.exec {i : Instr} {t : State} (hi : exec i s = .next t) : MemoriesOk t := by
  obtain ⟨e, r, -, rfl⟩ | ⟨x, y, v, -, -, ho, rfl⟩ | ⟨g, -, rfl⟩ | ⟨-, rfl⟩ | ⟨-, rfl⟩ | ⟨-, rfl⟩ := exec_cases hi
  · exact { h with }
  · exact { h.set ho v with }
  · exact { h.sweep g with }
  · exact { (h.backup (frameRead s.cfg s.fb)).sweep (fun x y => gray (frameRead s.cfg s.fb x y)) with }
  · exact { h.sweep (backupRead s.cfg s.bb) with }
  · exact { h with }

theorem MemoriesOk.runCommand {t : State} (ht : runCommand s = .next t) : MemoriesOk t := by
  obtain ⟨i, -, hi⟩ | ⟨e, -, rfl⟩ := runCommand_cases ht
  · exact h.exec hi
  · exact { h with }

theorem MemoriesOk.complete {t : State} (ht : complete s = .next t) : MemoriesOk t := by
  obtain ⟨-, -, hrun⟩ | ⟨u, hrun, rfl⟩ := complete_cases ht
  · exact h.runCommand hrun
  · exact (h.overlap.runCommand hrun).overlap

end

/-! ### Every effect keeps the invariant -/

/-- The remaining moves are no part of the invariant. -/
theorem SystemInv.withMoves {s : State} (h : SystemInv s) (ms : List Move) : SystemInv { s with moves := ms } :=
  { h with }

theorem SystemInv.resetBlock {s : State} (h : SystemInv s) : SystemInv (resetBlock s) :=
  { h.memoriesOk.resetBlock with
    cfg_wf := by simpa using h.cfg_wf
    rsp_busy := by simp
    overlap_marked := by simp
    rsp_legal := by simp
    index_le := by simpa using h.index_le }

theorem SystemInv.takeResponse {s : State} (h : SystemInv s) : SystemInv (takeResponse s) :=
  { h with rsp_busy := by simp, overlap_marked := by simp, rsp_legal := by simp }

/-- An accept needs a word at the index, so the index stays within the program (R22). -/
theorem SystemInv.accept {s : State} (h : SystemInv s) {w : CmdWord} (hw : s.prog[s.k]? = some w) :
    SystemInv (accept w s) :=
  { h.memoriesOk.accept w with
    cfg_wf := by simpa using h.cfg_wf
    rsp_busy := by simp
    overlap_marked := by simp +contextual [accept_captureOverlap]
    rsp_legal := by simpa using h.rsp_legal
    index_le := by simpa using (List.getElem?_eq_some_iff.mp hw).1 }

theorem SystemInv.setCapture {s : State} (h : SystemInv s) (v : Bool) : SystemInv (setCapture v s) :=
  { h.memoriesOk.setCapture v with
    cfg_wf := by simpa using h.cfg_wf
    rsp_busy := by simpa using h.rsp_busy
    overlap_marked := by simp +contextual [setCapture_captureOverlap]
    rsp_legal := by simpa using h.rsp_legal
    index_le := by simpa using h.index_le }

/-- The complete step offers a legal response and marks an overlap; nothing else of the invariant is at stake. -/
theorem SystemInv.complete {s t : State} (h : SystemInv s) (hbusy : s.busy = true) (ht : complete s = .next t) :
    SystemInv t := by
  obtain ⟨r, hr, hl⟩ := complete_rsp h.cfg_wf ht
  exact
    { h.memoriesOk.complete ht with
      cfg_wf := by rw [complete_cfg ht]; exact h.cfg_wf
      rsp_busy := fun _ => (complete_busy ht).trans hbusy
      overlap_marked := fun hen _ => by rw [complete_captureOverlap ht, ← complete_captureEn ht, hen, Bool.or_true]
      rsp_legal := fun q hq => by rwa [← Option.some.inj (hr.symm.trans hq)]
      index_le := by rw [complete_k ht, complete_prog ht]; exact h.index_le }

theorem SystemInv.edge {s t : State} (h : SystemInv s) (ht : EdgeEffect s t) : SystemInv t := by
  cases ht with
  | reset => exact h.resetBlock
  | complete hs ht =>
    obtain ⟨-, hbusy, -⟩ := hs
    exact h.complete hbusy ht
  | take => exact h.takeResponse
  | accept _ _ _ hw => exact h.accept hw
  | hold | idle => exact h

theorem SystemInv.move {s t : State} (h : SystemInv s) {m : Move} (ht : MoveEffect s m t) : SystemInv t := by
  cases ht with
  | setValid | setReady | setRst => exact { h with }
  | setCapture v => exact h.setCapture v
  | camera o v _ ho => exact { h.memoriesOk.set ho v, h with }
  | cameraOff => exact h

/-- Settles O60: every effect of a step keeps the invariant. -/
theorem everyStepKeepsTheInvariant : Obligations.EveryStepKeepsTheInvariant := by
  intro s t h hstep
  obtain ⟨-, ms, ⟨-, ht⟩ | ⟨m, -, ht⟩⟩ := step_effect hstep
  · exact (h.withMoves ms).edge ht
  · exact (h.withMoves ms).move ht

/-- Settles O59: at a launch no response is pending, BUSY is clear and the index is 0. -/
theorem invariantHoldsAtReset : Obligations.InvariantHoldsAtReset := by
  have launch (cfg : Config) (fb bb : Memory) (c : Bool) (hc : cfg.wf) (hf : fb.wf) (hfd : fb.below cfg.depth)
      (hb : bb.wf) (hbd : bb.below cfg.depth) : SystemInv (State.launch cfg fb bb c) :=
    ⟨hc, hf, hfd, hb, hbd, nofun, nofun, nofun, Nat.zero_le _⟩
  exact ⟨launch _ _ _ _ (by decide) Memory.wf_nil (Memory.below_nil _) Memory.wf_nil (Memory.below_nil _), launch⟩

/-- Settles O53: BUSY under capture is the invariant; the mark is set by a completion that capture overlaps, by an
accept with capture enabled and by enabling capture while BUSY; no effect clears it. -/
theorem overlapMarkIsExactAndSticky : Obligations.OverlapMarkIsExactAndSticky := by
  intro s t h hstep
  have hmarked := (everyStepKeepsTheInvariant s t h hstep).overlap_marked
  refine ⟨hmarked, ?_⟩
  obtain ⟨-, ms, ⟨-, ht⟩ | ⟨m, -, ht⟩⟩ := step_effect hstep
  · cases ht with
    | complete hs ht =>
      obtain ⟨-, hbusy, -⟩ := hs
      have hbusy' : t.busy = true := (complete_busy ht).trans hbusy
      simp +contextual [complete_captureOverlap ht, complete_captureEn ht, hbusy']
    | accept => simp +contextual [accept_captureOverlap]
    | _ => simp +contextual
  · cases ht with
    | setCapture v => simp +contextual [setCapture_captureOverlap]
    | _ => simp +contextual

end Sys2Proof.Machine
end

section
/-!
PROOFS. Logical offsets and padding, ADDR, READ and WRITE of a logical pixel (spec/40_addressing_port.md R113 to R115),
and the whole-frame commands, each one sweep of the frame (spec/41_pixel_transforms.md R137 to R143).
-/

namespace Sys2Proof

open Machine

/-! ### Padding (R9, R58) -/

theorem Config.colOf_lt {c : Config} (hc : c.wf) (o : Nat) : c.colOf o < c.S := by
  obtain ⟨hW, -, hS, -⟩ := c.wf_iff.mp hc
  exact Nat.mod_lt o (by omega)

/-- An offset of the frame lies in one of its rows. -/
theorem Config.rowOf_lt {c : Config} {o : Nat} (ho : o < c.depth) : c.rowOf o < c.H :=
  Nat.div_lt_of_lt_mul (Nat.mul_comm c.H c.S ▸ ho)

/-- In a row of the frame, padding is what lies beyond the last column of the pixels. -/
theorem Config.isLogical_eq_false_iff {c : Config} {o : Nat} (ho : o < c.depth) :
    c.isLogical o = false ↔ c.W ≤ c.colOf o := by
  have hrow := c.rowOf_lt ho
  rw [← Bool.not_eq_true, Config.isLogical, c.inBounds_iff]
  omega

/-- Settles O10: an offset is given by its column and row, and the column tells pixels from padding. -/
theorem offsetsAreLogicalOrPadding : Obligations.OffsetsAreLogicalOrPadding := by
  refine fun c o hc ho => ⟨⟨fun h => ?_, ?_⟩, ⟨fun h => ?_, ?_⟩⟩
  · obtain ⟨hx, hy⟩ := (c.inBounds_iff _ _).mp h
    exact ⟨c.colOf o, c.rowOf o, hx, hy, (c.off_colOf_rowOf o).symm⟩
  · rintro ⟨x, y, hx, hy, rfl⟩
    exact c.isLogical_off hc hx hy
  · exact ⟨c.colOf o, c.rowOf o, (c.isLogical_eq_false_iff ho).mp h, c.colOf_lt hc o, c.rowOf_lt ho,
      (c.off_colOf_rowOf o).symm⟩
  · rintro ⟨x, y, hx, hxS, hy, rfl⟩
    rw [c.isLogical_eq_false_iff ho, Config.colOf, Nat.mul_add_mod_of_lt hxS]
    exact hx

namespace Machine

/-! ### ADDR, READ and WRITE of a logical pixel -/

section
variable {s : State} (hc : s.cfg.wf) {x y : Nat} (hx : x < s.cfg.W) (hy : y < s.cfg.H)
include hx hy

theorem exec_addr_of_logical :
    exec (.addr x y) s = .next (s.setRsp (rspWord s.tstate 0 (BitVec.ofNat 32 (s.cfg.off x y)))) := by
  rw [exec, execAddr, atPixel_of_inBounds ((s.cfg.inBounds_iff x y).mpr ⟨hx, hy⟩), respond_eq]

include hc

theorem exec_read_of_logical :
    exec (.read x y) s =
      .next (s.setRsp (rspWord s.tstate 0 ((Memory.get s.fb (s.cfg.off x y)).zeroExtend 32))) := by
  have hb := (s.cfg.inBounds_iff x y).mpr ⟨hx, hy⟩
  rw [exec, execRead, atPixel_of_inBounds hb, memRead_off hc hb]
  exact respond_eq ..

theorem exec_write_of_logical (d : Pixel) :
    exec (.write x y d) s =
      .next ((s.setFb (Memory.set s.fb (s.cfg.off x y) d)).setRsp (rspWord s.tstate 0 0)) := by
  have hb := (s.cfg.inBounds_iff x y).mpr ⟨hx, hy⟩
  rw [exec, execWrite, atPixel_of_inBounds hb, memWrite_off hc hb]
  exact respond_eq ..

end

/-- Settles O11: the offset of a logical pixel fits 32 bits. -/
theorem addrAnswersTheOffset : Obligations.AddrAnswersTheOffset := fun _ _ _ hc hx hy =>
  ⟨_, toNat_addresser hc hx hy, exec_addr_of_logical hx hy⟩

/-- Settles O12: the port reads the pixel's element. -/
theorem readAnswersThePixel : Obligations.ReadAnswersThePixel := fun _ _ _ hc hx hy =>
  exec_read_of_logical hc hx hy

/-- Settles O13: the port replaces the pixel's element. -/
theorem writeStoresThePixel : Obligations.WriteStoresThePixel := fun _ _ _ d hc hx hy =>
  ⟨_, exec_write_of_logical hc hx hy d, rfl, Memory.get_set_same .., fun _ ho => Memory.get_set_other _ d ho⟩

/-- Settles O15: two logical pixels have one offset only if they are the same pixel. -/
theorem readAfterWriteSeesTheWrite : Obligations.ReadAfterWriteSeesTheWrite := by
  intro s x y u v d hc hx hy hu hv
  have hsame : s.cfg.off u v = s.cfg.off x y ↔ u = x ∧ v = y :=
    ⟨s.cfg.off_inj hc hu hx, fun ⟨hux, hvy⟩ => by rw [hux, hvy]⟩
  have hget : Memory.get (Memory.set s.fb (s.cfg.off x y) d) (s.cfg.off u v) =
      if u = x ∧ v = y then d else Memory.get s.fb (s.cfg.off u v) := by
    simp only [Memory.get_set, hsame]
  rw [← hget]
  refine ⟨_, exec_write_of_logical hc hx hy d, exec_read_of_logical ?_ ?_ ?_⟩
  exacts [hc, hu, hv]

/-! ### The whole-frame commands -/

/-- A sweep of the frame with the response of a success touches no padding and no other state (R137). -/
theorem onlyLogicalPixels_frameSweep {s : State} (hc : s.cfg.wf) (g : Nat → Nat → Pixel) :
    OnlyLogicalPixels s ((s.setFb (frameSweep s.cfg s.fb g)).setRsp (rspWord s.tstate 0 0)) :=
  ⟨rfl, fun _ ho => get_backupSweep_padding hc _ _ ho⟩

/-- Settles O16: the sweep writes at `(x, y)` what stood at `(W-1-x, y)`. -/
theorem fliphReflectsEveryRow : Obligations.FliphReflectsEveryRow := fun _ hc =>
  ⟨_, rfl, onlyLogicalPixels_frameSweep hc _, fun _ _ => get_flipped_off hc _⟩

/-- Settles O17: the sweep writes at `(x, y)` what stood at `(x, H-1-y)`. -/
theorem mirrvReflectsEveryColumn : Obligations.MirrvReflectsEveryColumn := fun _ hc =>
  ⟨_, rfl, onlyLogicalPixels_frameSweep hc _, fun _ _ => get_mirrored_off hc _⟩

/-- Settles O18: the sweep writes the inverse of each pixel, which is its complement. -/
theorem invertComplementsEveryPixel : Obligations.InvertComplementsEveryPixel := fun _ hc =>
  ⟨_, rfl, onlyLogicalPixels_frameSweep hc _, fun _ _ hx hy =>
    (get_pixelwise_off hc inv _ hx hy).trans (inv_eq_xor _)⟩

/-- Settles O19: the sweep writes the gray of each pixel. -/
theorem grayConvertsEveryPixel : Obligations.GrayConvertsEveryPixel := fun _ hc =>
  ⟨_, rfl, onlyLogicalPixels_frameSweep hc _, fun _ _ => get_pixelwise_off hc gray _⟩

end Machine

end Sys2Proof
end

section
/-!
PROOFS. The document's swap loops against the closed forms, and the operation counts (spec/41_pixel_transforms.md R138,
R139). A loop visits one half of the logical pixels and exchanges each with its image under a reflection; exchanges of
disjoint pairs of an involution put at every element what stood at its image.
-/

namespace Sys2Proof

open Machine

/-! ### Blocks of logical pixels -/

/-- The offsets of the first `w` columns of the first `h` rows, row by row. -/
def Config.block (c : Config) (w h : Nat) : List Nat :=
  (List.range h).flatMap fun y => (List.range w).map fun x => c.off x y

theorem Config.length_block (c : Config) (w h : Nat) : (c.block w h).length = h * w := by
  simp [Config.block, List.length_flatMap]

theorem Config.mem_block (c : Config) (w h o : Nat) : o ∈ c.block w h ↔ ∃ x y, x < w ∧ y < h ∧ o = c.off x y := by
  simp only [Config.block, List.mem_flatMap, List.mem_map, List.mem_range]
  exact ⟨fun ⟨y, hy, x, hx, ho⟩ => ⟨x, y, hx, hy, ho.symm⟩, fun ⟨x, y, hx, hy, ho⟩ => ⟨y, hy, x, hx, ho.symm⟩⟩

/-- The offset of a logical pixel is in a block when its column and row are. -/
theorem Config.off_mem_block {c : Config} (hc : c.wf) {w h x y : Nat} (hw : w ≤ c.W) (hx : x < c.W) :
    c.off x y ∈ c.block w h ↔ x < w ∧ y < h := by
  rw [c.mem_block]
  constructor
  · rintro ⟨u, v, hu, hv, huv⟩
    obtain ⟨rfl, rfl⟩ := c.off_inj hc hx (hu.trans_le hw) huv
    exact ⟨hu, hv⟩
  · exact fun ⟨hx, hy⟩ => ⟨x, y, hx, hy, rfl⟩

theorem Config.nodup_block {c : Config} (hc : c.wf) {w : Nat} (hw : w ≤ c.W) (h : Nat) : (c.block w h).Nodup := by
  have inj {x y u v : Nat} (hx : x < w) (hu : u < w) (heq : c.off x y = c.off u v) : x = u ∧ y = v :=
    c.off_inj hc (hx.trans_le hw) (hu.trans_le hw) heq
  refine List.nodup_flatMap.mpr ⟨fun y _ => ?_, ?_⟩
  · exact List.Nodup.map_on (fun x hx u hu heq => (inj (List.mem_range.mp hx) (List.mem_range.mp hu) heq).1)
      List.nodup_range
  · refine List.nodup_range.imp fun {y v} hyv o hy hv => ?_
    obtain ⟨x, hx, rfl⟩ := List.mem_map.mp hy
    obtain ⟨u, hu, heq⟩ := List.mem_map.mp hv
    exact hyv (inj (List.mem_range.mp hx) (List.mem_range.mp hu) heq.symm).2

/-- The logical offsets are the block of all columns and rows. -/
theorem Config.perm_block_logical {c : Config} (hc : c.wf) :
    ((List.range c.depth).filter (fun o => c.isLogical o)).Perm (c.block c.W c.H) := by
  refine (List.perm_ext_iff_of_nodup (List.nodup_range.filter _) (c.nodup_block hc le_rfl _)).mpr fun o => ?_
  rw [List.mem_filter, List.mem_range, c.mem_block]
  constructor
  · rintro ⟨-, ho⟩
    obtain ⟨hx, hy⟩ := (c.inBounds_iff _ _).mp ho
    exact ⟨_, _, hx, hy, (c.off_colOf_rowOf o).symm⟩
  · rintro ⟨x, y, hx, hy, rfl⟩
    exact ⟨c.off_lt_depth hc hx hy, c.isLogical_off hc hx hy⟩

/-- A statement about every offset is one about the logical pixels and one about padding. -/
theorem Config.forall_offset (c : Config) {P : Nat → Prop} (hlogical : ∀ x y, x < c.W → y < c.H → P (c.off x y))
    (hpadding : ∀ o, c.isLogical o = false → P o) (o : Nat) : P o := by
  cases ho : c.isLogical o with
  | true =>
    obtain ⟨hx, hy⟩ := (c.inBounds_iff _ _).mp ho
    exact c.off_colOf_rowOf o ▸ hlogical _ _ hx hy
  | false => exact hpadding o ho

namespace Machine

/-! ### Exchanges -/

/-- Two elements change places, every other stays. -/
theorem Memory.get_swap (m : Memory) (a b o : Nat) :
    Memory.get (Memory.swap m a b) o =
      if o = b then Memory.get m a else if o = a then Memory.get m b else Memory.get m o := by
  rw [Memory.swap, Memory.get_set, Memory.get_set]

/-- Exchanges of elements with their images under an involution, no pair named twice: an element in one of the pairs
reads as its image did. -/
theorem Memory.get_swapAll {σ : Nat → Nat} (hσ : σ.Involutive) {as : List Nat}
    (h : as.Pairwise fun a b => a ≠ b ∧ a ≠ σ b) (m : Memory) (o : Nat) :
    Memory.get (Memory.swapAll m (as.map fun a => (a, σ a))) o =
      if o ∈ as ∨ σ o ∈ as then Memory.get m (σ o) else Memory.get m o := by
  induction as generalizing m with
  | nil => simp [Memory.swapAll]
  | cons a as ih =>
    obtain ⟨hfirst, hrest⟩ := List.pairwise_cons.mp h
    have hstep : Memory.swapAll m ((a :: as).map fun a => (a, σ a)) =
        Memory.swapAll (Memory.swap m a (σ a)) (as.map fun a => (a, σ a)) := rfl
    rw [hstep, ih hrest]
    by_cases hlater : o ∈ as ∨ σ o ∈ as
    · have hne : a ≠ o ∧ a ≠ σ o := by
        rcases hlater with ho | ho
        · exact hfirst o ho
        · have := hfirst (σ o) ho
          rw [hσ o] at this
          exact this.symm
      have hne' : σ o ≠ σ a := fun e => hne.1 (hσ.injective e).symm
      rw [if_pos hlater, if_pos (hlater.imp (List.mem_cons_of_mem a) (List.mem_cons_of_mem a)), Memory.get_swap,
        if_neg hne', if_neg hne.2.symm]
    · rw [if_neg hlater, Memory.get_swap]
      by_cases himage : o = σ a
      · rw [if_pos himage, himage, hσ a, if_pos (.inr List.mem_cons_self)]
      · by_cases hself : o = a
        · rw [if_neg himage, if_pos hself, hself, if_pos (.inl List.mem_cons_self)]
        · have himage' : σ o ≠ a := fun e => himage (by rw [← e, hσ o])
          simp only [himage, hself, himage', List.mem_cons, false_or, if_false, hlater]

/-! ### Reflections -/

/-- The offset that a reflection `f` of the columns and `g` of the rows gives a logical offset; padding stays. -/
def reflect (c : Config) (f g : Nat → Nat) (o : Nat) : Nat :=
  if c.isLogical o then c.off (f (c.colOf o)) (g (c.rowOf o)) else o

/-- A reflection of the numbers below `n`. -/
def ReflectsBelow (n : Nat) (f : Nat → Nat) : Prop := ∀ x, x < n → f x < n ∧ f (f x) = x

theorem reflectsBelow_self (n : Nat) : ReflectsBelow n (fun x => x) := fun _ hx => ⟨hx, rfl⟩

theorem reflectsBelow_sub (n : Nat) : ReflectsBelow n (fun x => n - 1 - x) := fun x hx => by
  dsimp only
  omega

section
variable {c : Config} (hc : c.wf) {f g : Nat → Nat}

theorem reflect_of_padding {o : Nat} (ho : c.isLogical o = false) : reflect c f g o = o := by
  rw [reflect, ho, if_neg (by decide)]

include hc

theorem reflect_off {x y : Nat} (hx : x < c.W) (hy : y < c.H) : reflect c f g (c.off x y) = c.off (f x) (g y) := by
  rw [reflect, if_pos (c.isLogical_off hc hx hy), c.colOf_off hc hx, c.rowOf_off hc hx]

variable (hf : ReflectsBelow c.W f) (hg : ReflectsBelow c.H g)
include hf hg

theorem reflect_involutive : (reflect c f g).Involutive := by
  refine c.forall_offset (fun x y hx hy => ?_) (fun o ho => ?_)
  · rw [reflect_off hc hx hy, reflect_off hc (hf x hx).1 (hg y hy).1, (hf x hx).2, (hg y hy).2]
  · rw [reflect_of_padding ho, reflect_of_padding ho]

/-- The closed form of a reflection, at every element. -/
theorem get_reflected (m : Memory) (o : Nat) :
    Memory.get (frameSweep c m fun x y => frameRead c m (f x) (g y)) o = Memory.get m (reflect c f g o) := by
  revert o
  refine c.forall_offset (fun x y hx hy => ?_) (fun o ho => ?_)
  · rw [frameSweep_eq, get_backupSweep_off hc _ _ hx hy, frameRead_eq hc m (hf x hx).1 (hg y hy).1,
      reflect_off hc hx hy]
  · rw [frameSweep_eq, get_backupSweep_padding hc _ _ ho, reflect_of_padding ho]

/-- The exchanges of a block of pixels with their images reach the closed form when the block meets its image nowhere
and the two leave only pixels that are their own image. -/
theorem get_swapAll_block {w h : Nat} (hw : w ≤ c.W) (hh : h ≤ c.H)
    (hdisjoint : ∀ x y, x < w → y < h → ¬ (f x < w ∧ g y < h))
    (hcover : ∀ x y, x < c.W → y < c.H → (x < w ∧ y < h) ∨ (f x < w ∧ g y < h) ∨ f x = x ∧ g y = y)
    (m : Memory) (o : Nat) :
    Memory.get (Memory.swapAll m ((c.block w h).map fun a => (a, reflect c f g a))) o =
      Memory.get (frameSweep c m fun x y => frameRead c m (f x) (g y)) o := by
  have hpairs : (c.block w h).Pairwise fun a b => a ≠ b ∧ a ≠ reflect c f g b := by
    refine (c.nodup_block hc hw h).pairwise_of_forall_ne fun a ha b hb hab => ⟨hab, ?_⟩
    obtain ⟨x, y, hx, hy, rfl⟩ := (c.mem_block w h a).mp ha
    obtain ⟨u, v, hu, hv, rfl⟩ := (c.mem_block w h b).mp hb
    rw [reflect_off hc (hu.trans_le hw) (hv.trans_le hh)]
    intro heq
    obtain ⟨hxu, hyv⟩ := c.off_inj hc (hx.trans_le hw) (hf u (hu.trans_le hw)).1 heq
    exact hdisjoint u v hu hv ⟨hxu ▸ hx, hyv ▸ hy⟩
  rw [Memory.get_swapAll (reflect_involutive hc hf hg) hpairs, get_reflected hc hf hg]
  revert o
  refine c.forall_offset (fun x y hx hy => ?_) (fun o ho => ?_)
  · simp only [reflect_off hc hx hy, c.off_mem_block hc hw hx, c.off_mem_block hc hw (hf x hx).1]
    split
    · rfl
    · rename_i hout
      obtain hin | hin | ⟨hfx, hgy⟩ := hcover x y hx hy
      · exact absurd (.inl hin) hout
      · exact absurd (.inr hin) hout
      · rw [hfx, hgy]
  · rw [reflect_of_padding ho, ite_self]

end

/-! ### FLIPH and MIRRV -/

/-- A loop over a block that exchanges each pixel with the one at `(f x, g y)`. -/
theorem map_reflect_block {c : Config} (hc : c.wf) {w h : Nat} (hw : w ≤ c.W) (hh : h ≤ c.H) (f g : Nat → Nat) :
    ((c.block w h).map fun a => (a, reflect c f g a)) =
      (List.range h).flatMap fun y => (List.range w).map fun x => (c.off x y, c.off (f x) (g y)) := by
  rw [Config.block, List.map_flatMap]
  refine List.flatMap_congr fun y hy => ?_
  rw [List.map_map]
  refine List.map_congr_left fun x hx => ?_
  rw [Function.comp_apply, reflect_off hc ((List.mem_range.mp hx).trans_le hw) ((List.mem_range.mp hy).trans_le hh)]

/-- FLIPH exchanges the pixels of the left half with their images (R140). -/
theorem flipSwaps_eq {c : Config} (hc : c.wf) :
    flipSwaps c = (c.block (c.W / 2) c.H).map fun a => (a, reflect c (fun x => c.W - 1 - x) (fun y => y) a) :=
  (map_reflect_block hc (Nat.div_le_self ..) le_rfl _ _).symm

/-- MIRRV exchanges the pixels of the upper half with their images (R141). -/
theorem mirrorSwaps_eq {c : Config} (hc : c.wf) :
    mirrorSwaps c = (c.block c.W (c.H / 2)).map fun a => (a, reflect c (fun x => x) (fun y => c.H - 1 - y) a) :=
  (map_reflect_block hc le_rfl (Nat.div_le_self ..) _ _).symm

/-- Settles O21: half of the columns (rows) and its image make up the frame, but for a middle column (row) that is its
own image. -/
theorem swapLoopsReachTheClosedForms : Obligations.SwapLoopsReachTheClosedForms := by
  intro c m o hc
  rw [flipSwaps_eq hc, mirrorSwaps_eq hc]
  constructor
  · exact get_swapAll_block hc (reflectsBelow_sub c.W) (reflectsBelow_self c.H) (Nat.div_le_self ..) le_rfl
      (fun _ _ _ _ => by omega) (fun _ _ _ _ => by omega) m o
  · exact get_swapAll_block hc (reflectsBelow_self c.W) (reflectsBelow_sub c.H) le_rfl (Nat.div_le_self ..)
      (fun _ _ _ _ => by omega) (fun _ _ _ _ => by omega) m o

/-- Settles O22: a loop makes one swap for each pixel of its block, and the logical offsets are the whole block. -/
theorem operationCounts : Obligations.OperationCounts := by
  intro c hc
  rw [flipSwaps_eq hc, mirrorSwaps_eq hc, (c.perm_block_logical hc).length_eq, List.length_map, List.length_map,
    c.length_block, c.length_block, c.length_block]
  exact ⟨rfl, Nat.mul_comm .., Nat.mul_comm ..⟩

end Machine

end Sys2Proof
end

section
/-!
PROOFS. The grayscale unit (spec/41_pixel_transforms.md R134): its output is a function of the luminance, the luminance
of an output is at most that of the input, and the outputs are the entries of the table of R136.
-/

namespace Sys2Proof.Machine

/-! ### The luminance of a gray pixel -/

/-- Settles O27: red and blue of a gray pixel are the same step of the luminance, of which the pixel is a function. -/
theorem luminanceIsMonotone : Obligations.LuminanceIsMonotone := by
  refine ⟨fun p q => ⟨?_, fun h => congrArg shade h⟩, fun _ _ _ _ _ _ hr hg hb _ _ _ => lumaOf_mono hr hg hb⟩
  have h5 := shadeField5_le (luma_le p)
  have h6 := shadeField6_le (luma_le p)
  rw [gray, shade, red_pack h5 h6 h5, blue_pack h5 h6 h5]

/-- The luminance of the gray pixel of a luminance. -/
def regray (l : Nat) : Nat := lumaOf (l * 31 / 255) (l * 63 / 255) (l * 31 / 255)

theorem luma_shade {l : Nat} (h : l ≤ 255) : luma (shade l) = regray l := by
  have h5 := shadeField5_le h
  have h6 := shadeField6_le h
  rw [luma, shade, red_pack h5 h6 h5, green_pack h5 h6 h5, blue_pack h5 h6 h5, regray]

theorem luma_gray (p : Pixel) : luma (gray p) = regray (luma p) := luma_shade (luma_le p)

theorem regray_mono : Monotone regray := fun _ _ h =>
  lumaOf_mono (Nat.div_le_div_right (Nat.mul_le_mul_right 31 h)) (Nat.div_le_div_right (Nat.mul_le_mul_right 63 h))
    (Nat.div_le_div_right (Nat.mul_le_mul_right 31 h))

/-- Down to five or six bits and up again, truncating both times, gains nothing; to come back to the same luminance
from five bits it must be black or white, as 31 and 255 have no common factor. -/
theorem eq_zero_or_eq_of_regray_eq {l : Nat} (hl : l ≤ 255) (h : regray l = l) : l = 0 ∨ l = 255 := by
  have h5 : up5 (l * 31 / 255) ≤ l := by
    unfold up5
    omega
  have h6 : up6 (l * 63 / 255) ≤ l := by
    unfold up6
    omega
  have hred : l ≤ up5 (l * 31 / 255) := by
    unfold regray lumaOf at h
    omega
  unfold up5 at hred
  omega

/-- A gray pixel whose luminance stays is black or white. -/
theorem gray_eq_self_iff (p : Pixel) : gray p = p ↔ p = 0x0000 ∨ p = 0xFFFF := by
  constructor
  · intro h
    have hl : regray (luma p) = luma p := by rw [← luma_gray, h]
    rw [← h, gray]
    obtain hblack | hwhite := eq_zero_or_eq_of_regray_eq (luma_le p) hl
    · rw [hblack]
      exact .inl (by decide)
    · rw [hwhite]
      exact .inr (by decide)
  · rintro (rfl | rfl) <;> decide

/-- Settles O28: a fixed point keeps its luminance, and only black and white do. -/
theorem grayHasTwoFixedPoints : Obligations.GrayHasTwoFixedPoints := fun p =>
  ⟨gray_eq_self_iff p, gray_eq_self_iff (gray p)⟩

/-! ### Repeated application -/

theorem luma_gray_iterate (p : Pixel) (n : Nat) : luma (gray^[n] p) = regray^[n] (luma p) := by
  induction n with
  | zero => rfl
  | succ n ih => rw [Function.iterate_succ_apply', Function.iterate_succ_apply', luma_gray, ih]

/-- The brightest luminance below white's, 253, is down to 2 after 63 applications, evaluated eight at a time. -/
theorem regray_iterate_brightest : regray^[63] 253 = 2 := by
  have eight {n l m : Nat} (h : regray^[8] l = m) : regray^[n + 8] l = regray^[n] m := by
    rw [Function.iterate_add_apply, h]
  calc regray^[63] 253
      = regray^[55] 222 := eight (by decide)
    _ = regray^[47] 189 := eight (by decide)
    _ = regray^[39] 158 := eight (by decide)
    _ = regray^[31] 129 := eight (by decide)
    _ = regray^[23] 97 := eight (by decide)
    _ = regray^[15] 64 := eight (by decide)
    _ = regray^[7] 32 := eight (by decide)
    _ = 2 := by decide

/-- Settles O29: no pixel but white is brighter than 253, and a darker one darkens at least as far. -/
theorem grayDarkensToBlack : Obligations.GrayDarkensToBlack := by
  intro p hp
  have hdark : luma (gray^[63] p) ≤ 2 := by
    rw [luma_gray_iterate]
    exact (regray_mono.iterate 63 (luma_le_of_ne_white hp)).trans_eq regray_iterate_brightest
  rw [Function.iterate_succ_apply', gray]
  interval_cases luma (gray^[63] p) <;> rfl

/-! ### The outputs -/

/-- How many steps the fields of the gray pixel of a luminance have made from black: those of red and of green. -/
def shadeLevel (l : Nat) : Nat := l * 31 / 255 + l * 63 / 255

theorem shadeLevel_mono {l m : Nat} (h : l ≤ m) : shadeLevel l ≤ shadeLevel m :=
  Nat.add_le_add (Nat.div_le_div_right (Nat.mul_le_mul_right 31 h)) (Nat.div_le_div_right (Nat.mul_le_mul_right 63 h))

/-- While the level stays, neither field steps, as neither ever steps down. -/
theorem shade_succ_of_shadeLevel_eq {l : Nat} (h : shadeLevel (l + 1) = shadeLevel l) : shade (l + 1) = shade l := by
  unfold shadeLevel at h
  have h5 : (l + 1) * 31 / 255 = l * 31 / 255 := by omega
  have h6 : (l + 1) * 63 / 255 = l * 63 / 255 := by omega
  rw [shade, shade, h5, h6]

/-- The fields of a gray pixel give its level. -/
theorem shadeLevel_eq {l : Nat} (h : l ≤ 255) : shadeLevel l = red (shade l) + green (shade l) := by
  have h5 := shadeField5_le h
  have h6 := shadeField6_le h
  rw [shade, red_pack h5 h6 h5, green_pack h5 h6 h5, shadeLevel]

/-- The luminances at which the output steps, and black's. -/
def shadeSteps : List Nat := (List.range 256).filter fun l => decide (l = 0 ∨ shadeLevel (l - 1) < shadeLevel l)

theorem mem_shadeSteps (l : Nat) :
    l ∈ shadeSteps ↔ l < 256 ∧ (l = 0 ∨ shadeLevel (l - 1) < shadeLevel l) := by
  rw [shadeSteps, List.mem_filter, List.mem_range, decide_eq_true_eq]

/-- The level rises with every step, so no two steps have the same output. -/
theorem nodup_map_shade_shadeSteps : (shadeSteps.map shade).Nodup := by
  have rises {l m : Nat} (hm : m ∈ shadeSteps) (hlm : l < m) : shadeLevel l < shadeLevel m := by
    have hstep := ((mem_shadeSteps m).mp hm).2.resolve_left (by omega)
    exact (shadeLevel_mono (by omega)).trans_lt hstep
  refine List.Nodup.map_on (fun l hl m hm heq => ?_) (List.nodup_range.filter _)
  have hlevel : shadeLevel l = shadeLevel m := by
    rw [shadeLevel_eq (Nat.le_of_lt_succ ((mem_shadeSteps l).mp hl).1),
      shadeLevel_eq (Nat.le_of_lt_succ ((mem_shadeSteps m).mp hm).1), heq]
  by_contra hne
  obtain hlt | hlt := Nat.lt_or_gt_of_ne hne
  · exact (rises hm hlt).ne hlevel
  · exact (rises hl hlt).ne hlevel.symm

/-- Every luminance has the output of the last step up to it. -/
theorem shade_mem_map_shadeSteps {l : Nat} (h : l < 256) : shade l ∈ shadeSteps.map shade := by
  induction l with
  | zero => exact List.mem_map_of_mem ((mem_shadeSteps 0).mpr ⟨h, .inl rfl⟩)
  | succ l ih =>
    by_cases hstep : shadeLevel l < shadeLevel (l + 1)
    · exact List.mem_map_of_mem ((mem_shadeSteps (l + 1)).mpr ⟨h, .inr hstep⟩)
    · have hstay : shadeLevel (l + 1) = shadeLevel l := by
        have := shadeLevel_mono (Nat.le_add_right l 1)
        omega
      rw [shade_succ_of_shadeLevel_eq hstay]
      exact ih (by omega)

/-- A pixel of each luminance at which the output steps, by rising luminance. -/
def stepPixels : List Pixel :=
  [0x0000, 0x0006, 0x000A, 0x000E, 0x0013, 0x0017, 0x001B, 0x001F] ++
  [0x083F, 0x087E, 0x109D, 0x109E, 0x10BF, 0x18DE, 0x18DF, 0x20FD] ++
  [0x211F, 0x213E, 0x293E, 0x297D, 0x297E, 0x317F, 0x31BE, 0x39BE] ++
  [0x39DD, 0x39FF, 0x41FF, 0x421E, 0x4A3E, 0x4A3F, 0x4A7E, 0x527F] ++
  [0x529E, 0x52BE, 0x5ADD, 0x5ADE, 0x5AFF, 0x631E, 0x633E, 0x6B3D] ++
  [0x6B5F, 0x6B7F, 0x737E, 0x73BD, 0x73BF, 0x7BBF, 0x7BFE, 0x83FE] ++
  [0x841D, 0x843F, 0x8C5D, 0x8C5E, 0x947D, 0x949E, 0x949F, 0x9CBE] ++
  [0x9CDF, 0x9CFE, 0xA4FF, 0xA53D, 0xAD3D, 0xAD5E, 0xAD7E, 0xB57D] ++
  [0xB59F, 0xBDBD, 0xBDBE, 0xBDFD, 0xC5FE, 0xC5FF, 0xC63E, 0xCE3F] ++
  [0xCE5D, 0xCE7F, 0xD69D, 0xD69E, 0xDEBD, 0xDEDF, 0xE6FE, 0xE73E] ++
  [0xEF3F, 0xEF7F, 0xF79E, 0xF7BF, 0xFFDE, 0xFFFF]

theorem map_luma_stepPixels : stepPixels.map luma = shadeSteps := by
  decide

/-- Settles O30: the outputs are those of the 86 steps, at each of which a pixel is given. -/
theorem grayHasEightySixOutputs : Obligations.GrayHasEightySixOutputs := by
  refine ⟨shadeSteps.map shade, ?_, nodup_map_shade_shadeSteps, fun q => ⟨fun hq => ?_, ?_⟩⟩
  · rw [List.length_map, ← map_luma_stepPixels, List.length_map]
    rfl
  · rw [← map_luma_stepPixels, List.map_map] at hq
    obtain ⟨p, -, hp⟩ := List.mem_map.mp hq
    exact ⟨p, hp⟩
  · rintro ⟨p, rfl⟩
    exact shade_mem_map_shadeSteps (Nat.lt_succ_of_le (luma_le p))

end Sys2Proof.Machine
end

section
/-!
PROOFS. The toggle (spec/42_grayscale_toggle.md R160 to R170): the two transitions as seen from outside, which commands
make them, and that nothing else in a step touches TSTATE or the backup but a reset.
-/

namespace Sys2Proof.Machine

/-! ### The transitions -/

/-- The apply backs up and converts every logical pixel (R161). -/
theorem toggleApplied {s : State} (hc : s.cfg.wf) :
    ToggleApplied s ((toggleApply s).setRsp (rspWord .grayscale 0 0)) := by
  refine ⟨rfl, fun x y hx hy => ⟨?_, get_pixelwise_off hc gray s.fb hx hy⟩, fun o ho => ⟨?_, ?_⟩⟩
  · exact (get_backupSweep_off hc s.bb _ hx hy).trans (frameRead_eq hc s.fb hx hy)
  · exact get_backupSweep_padding hc s.fb _ ho
  · exact get_backupSweep_padding hc s.bb _ ho

/-- The restore copies every logical pixel back (R162). -/
theorem toggleRestored {s : State} (hc : s.cfg.wf) :
    ToggleRestored s ((toggleRestore s).setRsp (rspWord .color 0 0)) :=
  ⟨rfl, fun _ _ hx hy => (get_backupSweep_off hc s.fb _ hx hy).trans (backupRead_eq hc s.bb hx hy),
    fun _ ho => get_backupSweep_padding hc s.fb _ ho⟩

/-- Settles O31: GTOGGLE applies in Color and restores in Grayscale. -/
theorem gtoggleFollowsTstate : Obligations.GtoggleFollowsTstate := fun _ hc =>
  ⟨fun ht => ⟨_, exec_apply ht (.inr rfl), toggleApplied hc⟩,
    fun ht => ⟨_, exec_restore ht (.inr rfl), toggleRestored hc⟩⟩

/-- Settles O32: GAPPLY applies and GRESTORE restores. -/
theorem gapplyAndGrestoreMakeTheirTransitions : Obligations.GapplyAndGrestoreMakeTheirTransitions := fun _ hc =>
  ⟨fun ht => ⟨_, exec_apply ht (.inl rfl), toggleApplied hc⟩,
    fun ht => ⟨_, exec_restore ht (.inl rfl), toggleRestored hc⟩⟩

/-- Settles O34: both commands respond, NEWFRAME after setting TSTATE, with no access to a memory. -/
theorem newframeAndStatus : Obligations.NewframeAndStatus := fun _ => ⟨rfl, rfl⟩

/-! ### What a command can do to TSTATE and the backup -/

/-- A command keeps TSTATE, as its row of the table says, and the backup; or it is an apply, a restore or NEWFRAME. -/
theorem exec_toggle_cases {i : Instr} {s t : State} (h : exec i s = .next t) :
    (SameToggle s t ∧ nextToggle i s.tstate = s.tstate) ∨
    (s.tstate = .color ∧ (i = .gapply ∨ i = .gtoggle) ∧ t = (toggleApply s).setRsp (rspWord .grayscale 0 0)) ∨
    (s.tstate = .grayscale ∧ (i = .grestore ∨ i = .gtoggle) ∧ t = (toggleRestore s).setRsp (rspWord .color 0 0)) ∨
    (i = .newframe ∧ t = (s.setTstate .color).setRsp (rspWord .color 0 0)) := by
  have happly (ht : s.tstate = .color) (hi : i = .gapply ∨ i = .gtoggle) :
      t = (toggleApply s).setRsp (rspWord .grayscale 0 0) :=
    Host.Outcome.next.inj (h.symm.trans (exec_apply ht hi))
  have hrestore (ht : s.tstate = .grayscale) (hi : i = .grestore ∨ i = .gtoggle) :
      t = (toggleRestore s).setRsp (rspWord .color 0 0) :=
    Host.Outcome.next.inj (h.symm.trans (exec_restore ht hi))
  cases i with
  | status | fliph | mirrv | invert | gray =>
    obtain rfl := Host.Outcome.next.inj h
    exact .inl ⟨⟨rfl, rfl, rfl⟩, rfl⟩
  | addr x y =>
    cases hb : s.cfg.inBounds x y with
    | true =>
      obtain rfl := Host.Outcome.next.inj ((atPixel_of_inBounds hb (respond · s)).symm.trans h)
      exact .inl ⟨⟨rfl, rfl, rfl⟩, rfl⟩
    | false =>
      obtain rfl := Host.Outcome.next.inj ((atPixel_of_outOfBounds hb (respond · s)).symm.trans h)
      exact .inl ⟨⟨rfl, rfl, rfl⟩, rfl⟩
  | read x y =>
    obtain ⟨e, r, -, rfl⟩ := execRead_next h
    exact .inl ⟨⟨rfl, rfl, rfl⟩, rfl⟩
  | write x y v =>
    obtain ⟨-, -, rfl⟩ | ⟨-, rfl⟩ := execWrite_next h <;> exact .inl ⟨⟨rfl, rfl, rfl⟩, rfl⟩
  | gtoggle =>
    cases ht : s.tstate with
    | color => exact .inr (.inl ⟨rfl, .inr rfl, happly ht (.inr rfl)⟩)
    | grayscale => exact .inr (.inr (.inl ⟨rfl, .inr rfl, hrestore ht (.inr rfl)⟩))
  | gapply =>
    cases ht : s.tstate with
    | color => exact .inr (.inl ⟨rfl, .inl rfl, happly ht (.inl rfl)⟩)
    | grayscale =>
      obtain rfl := Host.Outcome.next.inj ((exec_gapply_of_grayscale ht).symm.trans h)
      exact .inl ⟨⟨rfl, rfl, rfl⟩, rfl⟩
  | grestore =>
    cases ht : s.tstate with
    | color =>
      obtain rfl := Host.Outcome.next.inj ((exec_grestore_of_color ht).symm.trans h)
      exact .inl ⟨⟨rfl, rfl, rfl⟩, rfl⟩
    | grayscale => exact .inr (.inr (.inl ⟨rfl, .inl rfl, hrestore ht (.inl rfl)⟩))
  | newframe => exact .inr (.inr (.inr ⟨rfl, (Host.Outcome.next.inj h).symm⟩))

/-- Settles O35: the table's next state is Grayscale for an apply and Color for a restore and NEWFRAME. -/
theorem transitionTable : Obligations.TransitionTable := by
  intro i s t h
  obtain ⟨hsame, hnext⟩ | ⟨ht, hi, rfl⟩ | ⟨ht, hi, rfl⟩ | ⟨rfl, rfl⟩ := exec_toggle_cases h
  · rw [hnext, hsame.tstate]
  · obtain rfl | rfl := hi <;> rw [ht] <;> rfl
  · obtain rfl | rfl := hi <;> rw [ht] <;> rfl
  · rfl

/-- Only the four commands of the toggle change TSTATE. -/
theorem movesToggle_of_tstate_ne {i : Instr} {s t : State} (h : exec i s = .next t) (ht : t.tstate ≠ s.tstate) :
    movesToggle i = true := by
  rw [transitionTable i s t h] at ht
  cases i with
  | gtoggle | gapply | grestore | newframe => rfl
  | _ => exact absurd rfl ht

/-! ### Padding and the backup -/

/-- A command writes logical elements only. -/
theorem exec_padding {i : Instr} {s t : State} (hc : s.cfg.wf) (h : exec i s = .next t) {o : Nat}
    (ho : s.cfg.isLogical o = false) :
    Memory.get t.fb o = Memory.get s.fb o ∧ Memory.get t.bb o = Memory.get s.bb o := by
  obtain ⟨e, r, -, rfl⟩ | ⟨x, y, v, -, hb, -, rfl⟩ | ⟨g, -, rfl⟩ | ⟨-, rfl⟩ | ⟨-, rfl⟩ | ⟨-, rfl⟩ := exec_cases h
  · exact ⟨rfl, rfl⟩
  · refine ⟨?_, rfl⟩
    rw [toNat_ofNat_off hc hb]
    refine Memory.get_set_other _ v fun heq => ?_
    obtain ⟨hx, hy⟩ := (s.cfg.inBounds_iff x y).mp hb
    rw [heq, s.cfg.isLogical_off hc hx hy] at ho
    exact absurd ho (by decide)
  · exact ⟨get_backupSweep_padding hc s.fb _ ho, rfl⟩
  · exact ⟨get_backupSweep_padding hc s.fb _ ho, get_backupSweep_padding hc s.bb _ ho⟩
  · exact ⟨get_backupSweep_padding hc s.fb _ ho, rfl⟩
  · exact ⟨rfl, rfl⟩

/-- Settles O37: of a command's effects only the apply names the backup, and all of them write logical elements only. -/
theorem backupWrittenOnlyOnApply : Obligations.BackupWrittenOnlyOnApply := by
  intro i s t hc h
  refine ⟨fun hbb => ?_, fun o ho => exec_padding hc h ho⟩
  obtain ⟨hsame, -⟩ | ⟨ht, hi, -⟩ | ⟨-, -, rfl⟩ | ⟨-, rfl⟩ := exec_toggle_cases h
  · exact absurd hsame.bb hbb
  · exact ⟨ht, hi.symm⟩
  · exact absurd rfl hbb
  · exact absurd rfl hbb

/-! ### The stale backup -/

/-- The bounds check does not look at the backup. -/
theorem atPixel_setBb {x y : Nat} {s : State} {b : Memory} {f g : BitVec 32 → Host.Outcome State Fault Refusal}
    (h : ∀ a, g a = onNext (·.setBb b) (f a)) :
    atPixel x y (s.setBb b) g = onNext (·.setBb b) (atPixel x y s f) := by
  unfold atPixel
  rw [State.setBb_cfg]
  split
  · exact h _
  · rfl

theorem memRead_setBb (s : State) (b : Memory) (a : BitVec 32) : memRead (s.setBb b) a = memRead s a := rfl

theorem memWrite_setBb (s : State) (b : Memory) (a : BitVec 32) (v : Pixel) :
    memWrite (s.setBb b) a v = (memWrite s a v).map (·.setBb b) := by
  unfold memWrite
  rw [State.setBb_cfg]
  split <;> rfl

/-- A command that does not move the toggle does the same with any other backup, which it hands on. -/
theorem exec_setBb {i : Instr} (hi : movesToggle i = false) (s : State) (b : Memory) :
    exec i (s.setBb b) = onNext (·.setBb b) (exec i s) := by
  cases i with
  | status | fliph | mirrv | invert | gray => rfl
  | addr x y =>
    rw [exec, exec, execAddr, execAddr]
    exact atPixel_setBb fun _ => rfl
  | read x y =>
    rw [exec, exec, execRead, execRead]
    refine atPixel_setBb fun a => ?_
    rw [memRead_setBb]
    cases memRead s a <;> rfl
  | write x y v =>
    rw [exec, exec, execWrite, execWrite]
    refine atPixel_setBb fun a => ?_
    rw [memWrite_setBb]
    cases memWrite s a v <;> rfl
  | gtoggle | gapply | grestore | newframe => exact absurd hi (by decide)

/-- Settles O38: the commands of the toggle overwrite the backup with the frame's pixels or leave it alone, and the
others hand it on. -/
theorem staleBackupIsNeverObserved : Obligations.StaleBackupIsNeverObserved := by
  intro i s t b ht h
  cases hi : movesToggle i with
  | false => exact ⟨t.setBb b, by rw [show { s with bb := b } = s.setBb b from rfl, exec_setBb hi, h]; rfl, rfl⟩
  | true =>
    cases i with
    | gtoggle =>
      obtain rfl := Host.Outcome.next.inj ((exec_apply ht (.inr rfl)).symm.trans h)
      exact ⟨_, exec_apply (s := s.setBb b) ht (.inr rfl), rfl⟩
    | gapply =>
      obtain rfl := Host.Outcome.next.inj ((exec_apply ht (.inl rfl)).symm.trans h)
      exact ⟨_, exec_apply (s := s.setBb b) ht (.inl rfl), rfl⟩
    | grestore =>
      obtain rfl := Host.Outcome.next.inj ((exec_grestore_of_color ht).symm.trans h)
      exact ⟨_, exec_grestore_of_color (s := s.setBb b) ht, rfl⟩
    | newframe =>
      obtain rfl := Host.Outcome.next.inj h
      exact ⟨_, rfl, rfl⟩
    | _ => cases hi

/-! ### Steps of the system -/

/-- The complete step runs the accepted word, between two states that differ from its own at most in the frame, the
mark and the draws. -/
theorem complete_runs {s t : State} (h : complete s = .next t) :
    ∃ u v, runCommand u = .next v ∧ u.cmd = s.cmd ∧ SameToggle s u ∧ SameToggle v t := by
  obtain ⟨-, -, hrun⟩ | ⟨v, hrun, rfl⟩ := complete_cases h
  · exact ⟨s, t, hrun, rfl, .refl s, .refl t⟩
  · exact ⟨overlap s, v, hrun, rfl, ⟨rfl, rfl, rfl⟩, ⟨rfl, rfl, rfl⟩⟩

/-- A complete step that changes TSTATE runs a command of the toggle. -/
theorem movesToggle_of_complete {s t : State} (h : complete s = .next t) (ht : t.tstate ≠ s.tstate) :
    ∃ i, decode s.cmd = .ok i ∧ movesToggle i = true := by
  obtain ⟨u, v, hrun, hcmd, hsu, hvt⟩ := complete_runs h
  rw [hvt.tstate, ← hsu.tstate] at ht
  rw [← hcmd]
  obtain ⟨i, hd, hi⟩ | ⟨e, -, rfl⟩ := runCommand_cases hrun
  · exact ⟨i, hd, movesToggle_of_tstate_ne hi ht⟩
  · exact absurd rfl ht

/-- In Grayscale no word writes the backup. -/
theorem complete_bb_of_grayscale {s t : State} (h : complete s = .next t) (hs : s.tstate = .grayscale) :
    t.bb = s.bb := by
  obtain ⟨u, v, hrun, -, hsu, hvt⟩ := complete_runs h
  rw [hvt.bb, ← hsu.bb]
  obtain ⟨i, -, hi⟩ | ⟨e, -, rfl⟩ := runCommand_cases hrun
  · obtain ⟨hsame, -⟩ | ⟨hcolor, -, -⟩ | ⟨-, -, rfl⟩ | ⟨-, rfl⟩ := exec_toggle_cases hi
    · exact hsame.bb
    · rw [hsu.tstate, hs] at hcolor
      cases hcolor
    · rfl
    · rfl
  · rfl

/-- Settles O36: of the effects of a step only a completion and a reset name TSTATE. -/
theorem onlyToggleCommandsAndResetChangeTstate : Obligations.OnlyToggleCommandsAndResetChangeTstate := by
  intro s t h ht
  obtain ⟨hc, ms, ⟨hedge, he⟩ | ⟨m, -, hm⟩⟩ := step_effect h
  · cases he with
    | reset hrst => exact .inr ⟨hrst, ⟨ms, hedge⟩, rfl⟩
    | complete hs hrun =>
      obtain ⟨-, hbusy, hrsp⟩ := hs
      obtain ⟨i, hd, hi⟩ := movesToggle_of_complete hrun ht
      obtain ⟨r, hr, -⟩ := complete_rsp (by exact hc) hrun
      exact .inl ⟨i, hd, hi, hbusy, hrsp, by rw [hr]; rfl⟩
    | accept => exact absurd (accept_tstate ..) ht
    | take | hold | idle => exact absurd rfl ht
  · cases hm with
    | setCapture => exact absurd (setCapture_tstate ..) ht
    | _ => exact absurd rfl ht

/-- Settles O39: a completion in Grayscale keeps the backup, a reset leaves Grayscale, and no other effect names it. -/
theorem backupHoldsWhileGrayscale : Obligations.BackupHoldsWhileGrayscale := by
  intro s t h hs ht
  obtain ⟨-, ms, ⟨-, he⟩ | ⟨m, -, hm⟩⟩ := step_effect h
  · cases he with
    | reset => cases ht
    | complete _ hrun => exact (complete_bb_of_grayscale hrun hs :)
    | accept => exact accept_bb ..
    | take | hold | idle => rfl
  · cases hm with
    | setCapture => exact setCapture_bb ..
    | _ => rfl

end Sys2Proof.Machine
end

section
/-!
PROOFS. What a step answers in each situation (spec/20_memory.md R60, 30_encoding.md R96, 70_reset_and_hazards.md R220,
R221): an equation per situation of a clock edge, the moves of the host and the camera, and what no step changes.
-/

namespace Sys2Proof.Machine

/-! ### A clock edge, by situation -/

theorem progress_of_rst {s : State} (h : s.rst = true) : progress s = .next (resetBlock s) := by
  rw [progress, if_pos h]

theorem progress_of_executing {s : State} (h : s.executing) : progress s = complete s := by
  obtain ⟨hrst, hbusy, hrsp⟩ := h
  simp only [progress, hrst, hbusy, hrsp, if_true, Bool.false_eq_true, if_false]

theorem progress_of_rsp {s : State} {r : RspWord} (hrst : s.rst = false) (hbusy : s.busy = true)
    (hrsp : s.rsp = some r) : progress s = .next (if s.rspReady then takeResponse s else s) := by
  simp only [progress, hrst, hbusy, hrsp, if_true, Bool.false_eq_true, if_false]

theorem progress_of_idle {s : State} (hrst : s.rst = false) (hbusy : s.busy = false) :
    progress s = .next (offer s) := by
  simp only [progress, hrst, hbusy, Bool.false_eq_true, if_false]

theorem complete_of_captureClear {s : State} (h : s.captureClear) : complete s = runCommand s := by
  obtain ⟨hen, hov⟩ := h
  simp only [complete, hen, hov, Bool.or_false, Bool.false_eq_true, if_false]

theorem complete_of_not_captureClear {s : State} (h : ¬ s.captureClear) :
    complete s = onNext overlap (runCommand (overlap s)) := by
  rw [complete, if_pos]
  rwa [← Bool.not_eq_false, Bool.or_eq_false_iff]

theorem runCommand_of_decode_ok {s : State} {i : Instr} (h : decode s.cmd = .ok i) : runCommand s = exec i s := by
  rw [runCommand, h]

theorem offer_of_offered {s : State} {w : CmdWord} (hvalid : s.cmdValid = true) (hw : s.prog[s.k]? = some w) :
    offer s = accept w s := by
  simp only [offer, hvalid, hw, if_true]

theorem offer_of_not_offered {s : State} (h : s.cmdValid = false ∨ s.prog.length ≤ s.k) : offer s = s := by
  rw [offer]
  obtain hvalid | hend := h
  · rw [hvalid, if_neg (by decide)]
  · rw [List.getElem?_eq_none hend]
    exact ite_self s

theorem accept_of_not_capturing {s : State} (h : s.captureEn = false) (w : CmdWord) :
    accept w s = { s with busy := true, cmd := w, k := s.k + 1 } := by
  rw [accept, h, if_neg (by decide)]

theorem accept_of_capturing {s : State} (h : s.captureEn = true) (w : CmdWord) :
    accept w s = overlap { s with busy := true, cmd := w, k := s.k + 1 } := by
  rw [accept, if_pos h]

theorem setCapture_of_clear {v : Bool} {s : State} (h : v = false ∨ s.busy = false) :
    setCapture v s = { s with captureEn := v } := by
  rw [setCapture, if_neg]
  obtain hv | hbusy := h
  · simp [hv]
  · simp [hbusy]

theorem setCapture_of_clash {s : State} (h : s.busy = true) :
    setCapture true s = overlap { s with captureEn := true } := by
  rw [setCapture, if_pos (by simp [h])]

/-- The machine is stuck exactly on a response that the host does not take (R202). -/
theorem stuck_iff (s : State) : s.stuck = true ↔ s.rst = false ∧ s.rspReady = false ∧ ∃ r, s.rsp = some r := by
  simp only [State.stuck, State.rspValid, Bool.and_eq_true, Bool.not_eq_true', Option.isSome_iff_exists]
  exact ⟨fun ⟨⟨hrsp, hrst⟩, hready⟩ => ⟨hrst, hready, hrsp⟩, fun ⟨hrst, hready, hrsp⟩ => ⟨⟨hrsp, hrst⟩, hready⟩⟩

theorem stuck_eq_false {s : State} (h : s.rst = true ∨ s.rspReady = true ∨ s.rsp = none) : s.stuck = false := by
  rw [← Bool.not_eq_true, stuck_iff]
  rintro ⟨hrst, hready, r, hrsp⟩
  simp [hrst, hready, hrsp] at h

/-- A clock edge of a well-formed configuration always answers a next state. -/
theorem progress_answers {s : State} (hc : s.cfg.wf) : ∃ t, progress s = .next t := by
  cases hrst : s.rst with
  | true => exact ⟨_, progress_of_rst hrst⟩
  | false =>
    cases hbusy : s.busy with
    | false => exact ⟨_, progress_of_idle hrst hbusy⟩
    | true =>
      cases hrsp : s.rsp with
      | none =>
        obtain ⟨t, r, ht, -⟩ := complete_answers hc
        exact ⟨t, (progress_of_executing ⟨hrst, hbusy, hrsp⟩).trans ht⟩
      | some r => exact ⟨_, progress_of_rsp hrst hbusy hrsp⟩

/-! ### The step at a clock edge, by situation -/

section
variable {s : State} {ms : List Move} (hc : s.cfg.wf) (he : s.atEdge ms)
include hc he

theorem step_of_reset (hrst : s.rst = true) : step s = .next (resetBlock { s with moves := ms }) :=
  (step_of_edge hc (stuck_eq_false (.inl hrst)) he).trans (progress_of_rst (s := { s with moves := ms }) hrst)

theorem step_of_executing (hs : s.executing) : step s = complete { s with moves := ms } := by
  have ⟨_, _, hrsp⟩ := hs
  exact (step_of_edge hc (stuck_eq_false (.inr (.inr hrsp))) he).trans
    (progress_of_executing (s := { s with moves := ms }) hs)

theorem step_of_ready {r : RspWord} (hrst : s.rst = false) (hbusy : s.busy = true) (hrsp : s.rsp = some r)
    (hready : s.rspReady = true) : step s = .next (takeResponse { s with moves := ms }) := by
  rw [step_of_edge hc (stuck_eq_false (.inr (.inl hready))) he,
    progress_of_rsp (s := { s with moves := ms }) hrst hbusy hrsp, if_pos hready]

theorem step_of_idle (hrst : s.rst = false) (hbusy : s.busy = false) (hrsp : s.rsp = none) :
    step s = .next (offer { s with moves := ms }) :=
  (step_of_edge hc (stuck_eq_false (.inr (.inr hrsp))) he).trans
    (progress_of_idle (s := { s with moves := ms }) hrst hbusy)

end

/-! ### The command in the block -/

/-- Settles O45: the edge completes the accepted word, on a free frame where capture overlaps it. -/
theorem stepRunsTheDecodedCommand : Obligations.StepRunsTheDecodedCommand := by
  intro s i ms hc hs he hd
  rw [step_of_executing hc he hs]
  refine ⟨fun hclear => ?_, fun hclash => ?_⟩
  · exact (complete_of_captureClear (s := { s with moves := ms }) hclear).trans (runCommand_of_decode_ok hd)
  · exact (complete_of_not_captureClear (s := { s with moves := ms }) hclash).trans
      (congrArg (onNext overlap) (runCommand_of_decode_ok hd))

/-- Settles O46: the edge accepts the word offered, and capture overlaps it if enabled. -/
theorem acceptTakesTheNextWord : Obligations.AcceptTakesTheNextWord := by
  rintro s w ms hc ⟨hrst, hbusy, hrsp, hvalid, hw⟩ he
  rw [step_of_idle hc he hrst hbusy hrsp, offer_of_offered (s := { s with moves := ms }) hvalid hw]
  refine ⟨fun hen => ?_, fun hen => ⟨_, rfl, ?_⟩⟩
  · rw [accept_of_not_capturing (s := { s with moves := ms }) hen]
  · rw [accept_of_capturing (s := { s with moves := ms }) hen]
    rfl

/-- Settles O47: of the effects of a step only a take and a reset name the response of a BUSY block. -/
theorem responseIsHeldUntilTaken : Obligations.ResponseIsHeldUntilTaken := by
  intro s r hc hbusy hrsp
  refine ⟨fun t h => ?_, fun ms hrst hready he => step_of_ready hc he hrst hbusy hrsp hready,
    fun ms hrst hready hm => ?_⟩
  · obtain ⟨-, ms, ⟨hedge, he⟩ | ⟨m, -, hm⟩⟩ := step_effect h
    · cases he with
      | reset hrst => exact .inr ⟨rfl, rfl, ⟨ms, hedge⟩, .inl hrst⟩
      | take _ _ _ hready => exact .inr ⟨rfl, rfl, ⟨ms, hedge⟩, .inr hready⟩
      | hold => exact .inl ⟨hrsp, hbusy⟩
      | complete hs =>
        obtain ⟨-, -, hnone⟩ := hs
        cases hrsp.symm.trans hnone
      | accept _ hidle | idle _ hidle => cases hbusy.symm.trans hidle
    · cases hm with
      | setCapture v => exact .inl ⟨(setCapture_rsp ..).trans hrsp, (setCapture_busy ..).trans hbusy⟩
      | _ => exact .inl ⟨hrsp, hbusy⟩
  · rw [step_of_move hc hm]
    refine (progress_of_rsp (s := { s with moves := ms }) hrst hbusy hrsp).trans (congrArg _ (if_neg ?_))
    simp [hready]

/-- Settles O48: with no move left the step is the stop or a clock edge, and a clock edge always answers. -/
theorem stopsOnlyOnAnUntakenResponse : Obligations.StopsOnlyOnAnUntakenResponse := by
  intro s hc
  refine ⟨fun hm r hrst hrsp hready => ?_, fun hm hstop => ?_, fun ms he hrst hbusy hrsp hoffer => ?_⟩
  · rw [step_of_no_move hc hm, if_pos ((stuck_iff s).mpr ⟨hrst, hready, r, hrsp⟩)]
  · rw [← stuck_iff]
    by_contra hfree
    obtain ⟨t, ht⟩ := progress_answers hc
    exact hstop t (by rw [step_of_no_move hc hm, if_neg hfree, ht])
  · rw [step_of_idle hc he hrst hbusy hrsp, offer_of_not_offered (s := { s with moves := ms }) hoffer]

/-- Settles O49: accept, complete and take, each a clock edge; the command leaves the host's inputs as they are. -/
theorem commandCycle : Obligations.CommandCycle := by
  rintro s w hc ⟨hm, hrst, hbusy, hrsp, hvalid, hready⟩ ⟨hen, hov⟩ hw
  have edge {u : State} (hu : u.moves = []) : u.atEdge u.moves := .inr ⟨hu, hu⟩
  obtain ⟨a, ha⟩ : ∃ a : State, a = { s with busy := true, cmd := w, k := s.k + 1 } := ⟨_, rfl⟩
  have hacfg : a.cfg = s.cfg := by rw [ha]
  have haexec : a.executing := by rw [ha]; exact ⟨hrst, rfl, hrsp⟩
  have haclear : a.captureClear := by rw [ha]; exact ⟨hen, hov⟩
  have hamoves : a.moves = [] := by rw [ha]; exact hm
  have haccept : step s = .next a := by
    rw [ha]
    exact (acceptTakesTheNextWord s w s.moves hc ⟨hrst, hbusy, hrsp, hvalid, hw⟩ (edge hm)).1 hen
  obtain ⟨b, r, hrun, hr, -⟩ := everyWordGetsALegalResponse a (hacfg ▸ hc)
  have hcomplete : step a = .next b := by
    rw [step_of_executing (hacfg ▸ hc) (edge hamoves) haexec]
    exact (complete_of_captureClear haclear).trans hrun
  have hb : b = { a with fb := b.fb, bb := b.bb, tstate := b.tstate, rsp := b.rsp } := runCommand_frame hrun
  rw [ha] at hb
  have hbcfg : b.cfg = s.cfg := by rw [hb]
  have hbmoves : b.moves = [] := by rw [hb]; exact hm
  have hbrst : b.rst = false := by rw [hb]; exact hrst
  have hbbusy : b.busy = true := by rw [hb]
  have hbvalid : b.cmdValid = true := by rw [hb]; exact hvalid
  have hbready : b.rspReady = true := by rw [hb]; exact hready
  have hbclear : b.captureClear := by rw [hb]; exact ⟨hen, hov⟩
  have hbk : b.k = s.k + 1 := by rw [hb]
  have htake : step b = .next (takeResponse b) :=
    step_of_ready (hbcfg ▸ hc) (edge hbmoves) hbrst hbbusy hr hbready
  exact ⟨a, b, takeResponse b, r, haccept, hcomplete, htake, ha, hrun, hr, rfl,
    ⟨hbmoves, hbrst, rfl, rfl, hbvalid, hbready⟩, hbclear, hbk, hbcfg⟩

/-! ### Reset -/

theorem abandon_of_idle {s : State} (h : s.busy = false) : abandon s = s := by
  rw [abandon, h, if_neg (by decide)]

theorem abandon_of_busy {s : State} (h : s.busy = true) :
    abandon s = drawBb (drawFb (wordMayWrite s.cfg s.cmd) s) := by
  rw [abandon, if_pos h]

/-- Settles O50: an idle block abandons nothing. -/
theorem resetWhileIdle : Obligations.ResetWhileIdle := by
  intro s ms hc hbusy hrst he
  rw [step_of_reset hc he hrst, resetBlock, abandon_of_idle (s := { s with moves := ms }) hbusy, ← hbusy]

/-- Of the logical pixels at most, a word may write (R137, R221). -/
theorem isLogical_of_wordMayWrite {c : Config} (hc : c.wf) {w : CmdWord} {o : Nat} (h : wordMayWrite c w o = true) :
    c.isLogical o = true := by
  unfold wordMayWrite at h
  split at h
  · rename_i i _
    cases i with
    | write x y v =>
      obtain ⟨hb, ho⟩ := Bool.and_eq_true_iff.mp h
      obtain ⟨hx, hy⟩ := (c.inBounds_iff x y).mp hb
      rw [eq_of_beq ho]
      exact c.isLogical_off hc hx hy
    | fliph | mirrv | invert | gray | gtoggle | gapply | grestore => exact h
    | status | addr | read | newframe => cases h
  · cases h

/-- A free draw of the frame, at any element. -/
theorem get_drawFb (p : Nat → Bool) (s : State) (o : Nat) :
    Memory.get (drawFb p s).fb o =
      if o < s.cfg.depth ∧ p o = true then Config.freeElement s.draws o else Memory.get s.fb o := by
  rw [drawFb_fb, Memory.get_rewrite, ite_and]

/-- Settles O51: the reset draws the elements that the word may write, which are logical and so exist, and then the
backup. -/
theorem resetAbandonsTheCommand : Obligations.ResetAbandonsTheCommand := by
  intro s ms hc hbusy hrst he
  have hfb (o : Nat) : Memory.get (drawBb (drawFb (wordMayWrite s.cfg s.cmd) { s with moves := ms })).fb o =
      if o < s.cfg.depth ∧ wordMayWrite s.cfg s.cmd o = true then Config.freeElement s.draws o
      else Memory.get s.fb o := get_drawFb ..
  rw [step_of_reset hc he hrst, resetBlock, abandon_of_busy (s := { s with moves := ms }) hbusy]
  refine ⟨_, rfl, rfl, fun o ho => ?_, fun o ho => ?_, fun o ho => ?_, fun o ho => ?_⟩
  · exact (hfb o).trans (if_neg fun h => absurd (ho.symm.trans h.2) (by decide))
  · rw [← Bool.not_eq_true]
    exact fun h => absurd (ho.symm.trans (isLogical_of_wordMayWrite hc h)) (by decide)
  · exact (hfb o).trans (if_pos ⟨s.cfg.lt_depth_of_isLogical hc (isLogical_of_wordMayWrite hc ho), ho⟩)
  · exact (Memory.get_rewrite ..).trans (if_pos ho)

/-- A reset leaves the reset values and the memories as they are. -/
theorem resetBlock_of_atReset {s : State} (h : s.atReset) : resetBlock s = { s with cmd := 0 } := by
  obtain ⟨htstate, hbusy, hrsp⟩ := h
  rw [resetBlock, abandon_of_idle hbusy, ← htstate, ← hbusy, ← hrsp]

/-- Settles O52: with the line high the only clock edge is a reset, which leaves reset values alone, and of the other
moves only the camera's writes a memory. -/
theorem resetHoldsTheBlock : Obligations.ResetHoldsTheBlock := by
  intro s hc hrst
  refine ⟨?_, ?_, fun ms he => ?_, fun t hs h => ?_, fun hs hcmd hm => ?_⟩
  · rw [State.cmdReady, hrst, Bool.not_true, Bool.and_false]
  · rw [State.rspValid, hrst, Bool.not_true, Bool.and_false]
  · exact ⟨_, step_of_reset hc he hrst, ⟨rfl, rfl, rfl⟩, (resetBlock_rst _).trans hrst, resetBlock_k _⟩
  · obtain ⟨-, ms, ⟨-, he⟩ | ⟨m, hmoves, hm⟩⟩ := step_effect h
    · cases he with
      | reset =>
        rw [resetBlock_of_atReset (s := { s with moves := ms }) hs]
        exact ⟨hs, rfl, rfl, fun h => absurd rfl h⟩
      | complete hexec =>
        obtain ⟨hlow, -, -⟩ := hexec
        cases hrst.symm.trans hlow
      | take hlow | hold hlow | accept hlow | idle hlow => cases hrst.symm.trans hlow
    · cases hm with
      | setCapture v =>
        have ⟨_, hbusy, _⟩ := hs
        rw [setCapture_of_clear (s := { s with moves := ms }) (.inr hbusy)]
        exact ⟨hs, rfl, rfl, fun h => absurd rfl h⟩
      | camera o v hen => exact ⟨hs, rfl, rfl, fun _ => ⟨o, v, ms, hmoves, hen⟩⟩
      | _ => exact ⟨hs, rfl, rfl, fun h => absurd rfl h⟩
  · rw [step_of_reset hc (.inr ⟨hm, hm⟩) hrst, resetBlock_of_atReset hs, ← hcmd]

/-! ### The moves of the host and the camera -/

/-- Settles O54: the camera's write is the set of one element. -/
theorem cameraWritesOneElement : Obligations.CameraWritesOneElement := by
  intro s o v ms hc hm
  have hstep : step s = cameraWrite o v { s with moves := ms } := step_of_move hc hm
  rw [hstep, cameraWrite]
  refine ⟨fun hen ho => ?_, fun hen ho => ?_, fun hen => ?_⟩
  · rw [if_pos hen, if_pos ho]
    exact ⟨_, rfl, rfl, Memory.get_set_same .., fun a ha => Memory.get_set_other _ v ha⟩
  · rw [if_pos hen, if_neg (Nat.not_lt.mpr ho)]
  · rw [if_neg (by simp [hen])]

/-- Settles O55: each move is the update of its input, and enabling capture while BUSY draws the frame. -/
theorem hostMovesSetOneInput : Obligations.HostMovesSetOneInput := by
  intro s ms v hc
  refine ⟨fun hm => step_of_move hc hm, fun hm => step_of_move hc hm, fun hm => step_of_move hc hm,
    fun hm hclear => ?_, fun hm hv hbusy => ?_⟩
  · rw [step_of_move hc hm]
    exact congrArg _ (setCapture_of_clear (s := { s with moves := ms }) hclear)
  · subst hv
    have hstep : step s = .next (overlap { s with captureEn := true, moves := ms }) := by
      rw [step_of_move hc hm]
      exact congrArg _ (setCapture_of_clash (s := { s with moves := ms }) hbusy)
    have hfb (o : Nat) := get_drawFb (fun _ => true) { s with captureEn := true, captureOverlap := true, moves := ms } o
    refine ⟨_, hstep, rfl, fun o ho => ?_, fun o ho => ?_⟩
    · exact (hfb o).trans (if_pos ⟨ho, rfl⟩)
    · exact (hfb o).trans (if_neg fun h => absurd h.1 (Nat.not_lt.mpr ho))

/-! ### What no step changes -/

/-- Settles O56: of the effects of a step only an accept names the index, and none the configuration or the program. -/
theorem geometryAndProgramAreFixed : Obligations.GeometryAndProgramAreFixed := by
  intro s t h
  obtain ⟨-, ms, ⟨-, he⟩ | ⟨m, -, hm⟩⟩ := step_effect h
  · cases he with
    | reset => exact ⟨resetBlock_cfg _, resetBlock_prog _, .inl (resetBlock_k _), fun _ ht => by cases ht⟩
    | complete hs hrun =>
      obtain ⟨-, hbusy, -⟩ := hs
      rw [complete_frame hrun]
      exact ⟨rfl, rfl, .inl rfl, fun hidle => by cases hidle.symm.trans hbusy⟩
    | take => exact ⟨rfl, rfl, .inl rfl, fun _ ht => by cases ht⟩
    | hold | idle => exact ⟨rfl, rfl, .inl rfl, fun hidle ht => by cases hidle.symm.trans ht⟩
    | accept hrst hidle hvalid hw =>
      refine ⟨accept_cfg .., accept_prog .., .inr ⟨accept_k .., hidle, hvalid, hrst, accept_busy .., ?_⟩,
        fun _ _ => accept_k ..⟩
      rw [accept_cmd]
      exact hw
  · cases hm with
    | setCapture v =>
      refine ⟨setCapture_cfg .., setCapture_prog .., .inl (setCapture_k ..), fun hidle ht => ?_⟩
      rw [setCapture_busy] at ht
      cases hidle.symm.trans ht
    | _ => exact ⟨rfl, rfl, .inl rfl, fun hidle ht => by cases hidle.symm.trans ht⟩

/-- Settles O57: the build and the step both look at the configuration first. -/
theorem illFormedConfigurationIsRefused : Obligations.IllFormedConfigurationIsRefused := by
  intro s hc
  refine ⟨?_, fun fb bb c => ?_⟩
  · rw [step, systemStep, if_neg hc]
  · rw [State.build, if_neg hc]

/-- Settles O58: the launch sets these fields so. -/
theorem resetValues : Obligations.ResetValues := fun _ _ _ _ =>
  ⟨rfl, rfl, rfl, rfl, rfl, rfl, rfl, rfl, rfl, rfl⟩

end Sys2Proof.Machine
end
